-- ==== Sys2Proof/Word.lean ====
section
/-! DEFINITION. The word and byte types, and the three sizes of register array the spec has
(eight words: X and C; four: KEY, DIN, DOUT; two: IV), with reading and building by index. -/

namespace Sys2Proof

/-- R1: every arithmetic value is an unsigned 32-bit word; `+` and `*` wrap modulo 2^32. -/
abbrev Word := BitVec 32

/-- R5: an unsigned 8-bit value. -/
abbrev Byte := BitVec 8

/-- A byte offset in the 256-byte register window (R51: 8-bit offsets). -/
abbrev Offset := BitVec 8

/-- Eight words, index 0 to 7 (R20, R21). -/
structure Octet where
  (w0 w1 w2 w3 w4 w5 w6 w7 : Word)
  deriving DecidableEq, Repr

/-- Four words, index 0 to 3 (R29, R32, R33). -/
structure Quad where
  (w0 w1 w2 w3 : Word)
  deriving DecidableEq, Repr

/-- Two words, index 0 and 1 (R30). -/
structure Pair where
  (w0 w1 : Word)
  deriving DecidableEq, Repr

/-- Element `i`. -/
def Octet.get (o : Octet) (i : Fin 8) : Word :=
  match i with
  | 0 => o.w0 | 1 => o.w1 | 2 => o.w2 | 3 => o.w3
  | 4 => o.w4 | 5 => o.w5 | 6 => o.w6 | 7 => o.w7

/-- The array whose element `i` is `f i`. -/
def Octet.ofFn (f : Fin 8 → Word) : Octet :=
  ⟨f 0, f 1, f 2, f 3, f 4, f 5, f 6, f 7⟩

/-- All eight words 0. -/
def Octet.zero : Octet := ⟨0, 0, 0, 0, 0, 0, 0, 0⟩

/-- Element `i`. -/
def Quad.get (q : Quad) (i : Fin 4) : Word :=
  match i with
  | 0 => q.w0 | 1 => q.w1 | 2 => q.w2 | 3 => q.w3

/-- The array whose element `i` is `f i`. -/
def Quad.ofFn (f : Fin 4 → Word) : Quad := ⟨f 0, f 1, f 2, f 3⟩

/-- All four words 0. -/
def Quad.zero : Quad := ⟨0, 0, 0, 0⟩

/-- The array with element `i` replaced by `v`. -/
def Quad.set (q : Quad) (i : Fin 4) (v : Word) : Quad :=
  match i with
  | 0 => { q with w0 := v } | 1 => { q with w1 := v }
  | 2 => { q with w2 := v } | 3 => { q with w3 := v }

/-- Element `i`. -/
def Pair.get (p : Pair) (i : Fin 2) : Word :=
  match i with
  | 0 => p.w0 | 1 => p.w1

/-- Both words 0. -/
def Pair.zero : Pair := ⟨0, 0⟩

/-- The array with element `i` replaced by `v`. -/
def Pair.set (p : Pair) (i : Fin 2) (v : Word) : Pair :=
  match i with
  | 0 => { p with w0 := v } | 1 => { p with w1 := v }

end Sys2Proof
end

