-- ==== Sys2Proof/Syntax.lean ====
section
/-! DEFINITION. The commands (one constructor per row of spec/opcode_table.json), what DECODE can
answer, and the host's side: bus accesses, the reset input, and the host assembly syntax of R89
and R90. -/

namespace Sys2Proof

/-- The commands (R85). `len` is the LEN field, an unsigned byte count (R83). NOP and ZEROIZE carry no
operand, since their LEN must be 0. -/
inductive Instr where
  | nop
  | keySetup (len : Nat)
  | ivSetup (len : Nat)
  | crypt (len : Nat)
  | zeroize
  deriving DecidableEq, Repr

/-- Why DECODE answers ILLEGAL (R86, R243). The engine reports all of these by the one code
ILLEGAL_COMMAND. -/
inductive Illegal where
  /-- RES0 or RES1 is not zero (R82). -/
  | reservedBits
  /-- NOP with LEN not 0. -/
  | nopLength
  /-- CRYPT with LEN over 16 (R87). -/
  | cryptLength
  /-- ZEROIZE with LEN not 0. -/
  | zeroizeLength
  /-- OP in 5 to 15. -/
  | unknownOp
  deriving DecidableEq, Repr

/-- The answer of DECODE (R86): a command, or ILLEGAL with the reason's name. -/
inductive Decoded where
  | command (i : Instr)
  | illegal (why : Illegal)
  deriving DecidableEq, Repr

/-- A row of the opcode map (R85): a word `w` matches it when `w &&& mask = pattern`. -/
structure OpRow where
  mnemonic : String
  pattern : Word
  mask : Word
  deriving DecidableEq, Repr

/-- The registers of the window (R51). -/
inductive Reg where
  | id
  | ctrl
  | status
  | cmd
  | key (j : Fin 4)
  | iv (j : Fin 2)
  | din (j : Fin 4)
  | dout (j : Fin 4)
  deriving DecidableEq, Repr

/-- The width of a bus access. Only 32-bit accesses reach a register (R56, R57). -/
inductive Width where
  | bits8
  | bits16
  | bits32
  deriving DecidableEq, Repr

/-- What the outside world does to the engine, one at a time in program order (R59). -/
inductive Input where
  /-- A write of `v` at `off` (R101, R102; narrower than 32 bits: R57). -/
  | write (off : Offset) (width : Width) (v : Word)
  /-- A read at `off` (R100; narrower than 32 bits: R57). -/
  | read (off : Offset) (width : Width)
  /-- The poll loop of R90: read STATUS until bit 0 is 0. -/
  | wait
  /-- The reset input (R270). -/
  | reset
  deriving DecidableEq, Repr

/-- A line of a host program: the two forms of R89, with their offset numeric or a register's name
(`regOffset`), and the pseudo-instructions of R90. -/
inductive HostLine where
  | wr (off : Offset) (v : Word)
  | rd (off : Offset)
  | wait
  | nop
  | keysetup (n : Nat)
  | ivsetup (n : Nat)
  | crypt (n : Nat)
  | zeroize
  | cmd (v : Word)
  | checkerr
  deriving DecidableEq, Repr

end Sys2Proof
end

