-- ==== Sys2Proof/WellFormed.lean ====
section
/-! DEFINITION. Which command terms and which host lines stand for something an encoding can hold. -/

namespace Sys2Proof

/-- A command that some command word decodes to: LEN fits its 5-bit field (R83), and CRYPT has LEN at
most 16 (R86). KEY_SETUP and IV_SETUP with an out-of-range LEN are well-formed: they decode and then
fail their length check (R87). -/
def Instr.wf : Instr → Bool
  | .nop => true
  | .keySetup len => decide (len < 32)
  | .ivSetup len => decide (len < 32)
  | .crypt len => decide (len ≤ 16)
  | .zeroize => true

/-- The ranges R90 gives its pseudo-instructions: `keysetup n` for 1 to 31 and `crypt n` for 0 to 16. R90
gives `ivsetup n` no range: DESIGN CHOICE, any value of the 5-bit LEN field, 0 to 31 (log entry 17). -/
def HostLine.wf : HostLine → Bool
  | .keysetup n => decide (1 ≤ n ∧ n ≤ 31)
  | .ivsetup n => decide (n < 32)
  | .crypt n => decide (n ≤ 16)
  | .wr _ _ => true
  | .rd _ => true
  | .wait => true
  | .nop => true
  | .zeroize => true
  | .cmd _ => true
  | .checkerr => true

end Sys2Proof
end

