-- ==== Sys2Proof/Decode.lean ====
section
/-! DEFINITION. DECODE of a command word (R80 to R88), total over every 32-bit word and rejecting by
name; after it the encoder, the opcode map's rows, and the reading of a table row's bits. -/

namespace Sys2Proof

/-- R81: `OP = w[3:0]`. -/
def opField (w : Word) : Nat := (w.extractLsb' 0 4).toNat

/-- R83: `LEN = zext(w[12:8])`, unsigned and not scaled. -/
def lenField (w : Word) : Nat := (w.extractLsb' 8 5).toNat

/-- R82: `RES0 = w[7:4]`. -/
def res0Field (w : Word) : Nat := (w.extractLsb' 4 4).toNat

/-- R82: `RES1 = w[31:13]`. -/
def res1Field (w : Word) : Nat := (w.extractLsb' 13 19).toNat

/-- R86: DECODE. It reads only the word. -/
def decode (w : Word) : Decoded :=
  if res1Field w ≠ 0 ∨ res0Field w ≠ 0 then .illegal .reservedBits
  else
    match opField w with
    | 0 => if lenField w = 0 then .command .nop else .illegal .nopLength
    | 1 => .command (.keySetup (lenField w))
    | 2 => .command (.ivSetup (lenField w))
    | 3 => if lenField w ≤ 16 then .command (.crypt (lenField w)) else .illegal .cryptLength
    | 4 => if lenField w = 0 then .command .zeroize else .illegal .zeroizeLength
    | _ => .illegal .unknownOp

/-- The operation code of a command (R85). -/
def opcode : Instr → Nat
  | .nop => 0
  | .keySetup _ => 1
  | .ivSetup _ => 2
  | .crypt _ => 3
  | .zeroize => 4

/-- The LEN field of a command (R83). -/
def lenOf : Instr → Nat
  | .nop => 0
  | .keySetup len => len
  | .ivSetup len => len
  | .crypt len => len
  | .zeroize => 0

/-- The command word of a well-formed command (R80): OP in bits 3:0, LEN in bits 12:8, the rest 0. -/
def encode (i : Instr) : Word :=
  (BitVec.ofNat 32 (lenOf i) <<< 8) ||| BitVec.ofNat 32 (opcode i)

/-- R85: the opcode map as match and mask. -/
def opcodeRows : List OpRow :=
  [ { mnemonic := "NOP", pattern := 0x00000000, mask := 0xFFFFFFFF },
    { mnemonic := "KEY_SETUP", pattern := 0x00000001, mask := 0xFFFFE0FF },
    { mnemonic := "IV_SETUP", pattern := 0x00000002, mask := 0xFFFFE0FF },
    { mnemonic := "CRYPT", pattern := 0x00000003, mask := 0xFFFFE0FF },
    { mnemonic := "ZEROIZE", pattern := 0x00000004, mask := 0xFFFFFFFF } ]

/-- The mnemonic of a command, as the opcode map spells it (R85). -/
def mnemonicOf : Instr → String
  | .nop => "NOP"
  | .keySetup _ => "KEY_SETUP"
  | .ivSetup _ => "IV_SETUP"
  | .crypt _ => "CRYPT"
  | .zeroize => "ZEROIZE"

/-- The command word whose bits are the low `nbits` bits of `w`, bit 0 the least significant, and 0
above them. A command is one 32-bit word (R80). -/
def commandWord (nbits w : Nat) : Word := BitVec.ofNat 32 (w % 2 ^ nbits)

/-- What DECODE reads from an opcode-table row's bits; `none` where it answers ILLEGAL, or where the
bits do not fit in the one 32-bit word a command is (R80). -/
def decodeTableWord (nbits w : Nat) : Option Instr :=
  if 2 ^ 32 ≤ w % 2 ^ nbits then none
  else
    match decode (commandWord nbits w) with
    | .command i => some i
    | .illegal _ => none

end Sys2Proof
end

