-- ==== Sys2Proof/Config.lean ====
section
/-! DEFINITION. What the spec leaves open: the free values and the open parameters
(92_eei_decisions.md, 93_implementation_defined.md items 8 to 10). None has a body, so nothing can
be proved of its value. -/

namespace Sys2Proof

/-- R100: what a 32-bit read of a DOUT register returns while BUSY = 1, "any 32-bit value", a fresh
draw for each read. The argument is the number of the draw, and nothing else of a run enters (DESIGN
CHOICE). Free value, log entry 4. -/
opaque Config.doutWhileBusy : Nat → Word

/-- R106: `CMD_LATENCY`, the number of host accesses between a command's issue and its engine step.
It is finite and may differ from command to command and from run to run; the argument is the number of
the draw, and nothing else of a run enters (DESIGN CHOICE). Free value, log entry 2. -/
opaque Config.cmdLatency : Nat → Nat

/-- R51: `BASE`, the platform address of offset 0x00 of the window. No rule reads it, and nothing in
this model does. Log entry 13. -/
opaque Config.base : Nat

end Sys2Proof
end

