-- ==== Sys2Proof/Machine/State.lean ====
section
/-! DEFINITION. The machine's state: the engine's own state as 10_state.md gives it, and beside it the
host's remaining inputs and the counters the free values are drawn by. Also the reasons a step can
stop, and the state after reset. -/

namespace Sys2Proof.Machine

/-- The transition order (R25, R34): 0 canonical, 1 legacy. -/
inductive TransOrder where
  | canonical
  | legacy
  deriving DecidableEq, Repr

/-- The lifecycle state `PHASE` (R27). -/
inductive Phase where
  | uninit
  | keyDone
  | keyed
  | streaming
  deriving DecidableEq, Repr

/-- The result codes of `STATUS.ERR` (R240). The reserved codes 5 to 7 are never written and have no
constructor (log entry 14). -/
inductive ErrCode where
  | noError
  | invalidKeyLength
  | invalidIvLength
  | illegalCommand
  | sequenceError
  deriving DecidableEq, Repr

/-- R23: the cipher state S, 513 bits. -/
structure Cipher where
  /-- `X[0..7]` (R20). -/
  x : Octet
  /-- `C[0..7]` (R21), `C[0]` the least significant limb. -/
  c : Octet
  /-- `CARRY` (R22, R2): one bit. -/
  carry : Bool
  deriving DecidableEq, Repr

/-- X, C and CARRY all 0. -/
def Cipher.zero : Cipher := { x := Octet.zero, c := Octet.zero, carry := false }

/-- Every piece of state the spec gives the engine (10_state.md section 4), but for ID, which is a
constant (R37) and lives in the operation that reads registers. -/
structure Engine where
  /-- `X`, `C`, `CARRY` (R20 to R23). -/
  cipher : Cipher
  /-- `ORDER_L`, the order latched by KEY_SETUP (R25). -/
  orderL : TransOrder
  /-- `PENDING`, the latched command word (R26). -/
  pending : Word
  /-- `PHASE` (R27). -/
  phase : Phase
  /-- `STATUS.BUSY` (R35). -/
  busy : Bool
  /-- `STATUS.BUSYERR` (R35, R245). -/
  busyErr : Bool
  /-- `STATUS.ERR` (R35, R240). -/
  err : ErrCode
  /-- `CTRL.ORDER` (R34). -/
  ctrlOrder : TransOrder
  /-- `CTRL.IV_EXACT8` (R34). -/
  ctrlIvExact8 : Bool
  /-- `KEY[0..3]` (R29). -/
  key : Quad
  /-- `IV[0..1]` (R30). -/
  iv : Pair
  /-- `DIN[0..3]` (R32). -/
  din : Quad
  /-- `DOUT[0..3]` (R33). -/
  dout : Quad
  deriving DecidableEq, Repr

/-- The whole state: the engine, and four fields of the model's own (log entries 1, 2, 4, 11). -/
structure State extends Engine where
  /-- What the outside world will do, the next thing first (R59; log entry 1). -/
  inputs : List Input
  /-- The values the host's reads have returned, the oldest first (log entry 11). -/
  reads : List Word
  /-- How many free values have been drawn: the argument of the next draw (log entry 4). -/
  draws : Nat
  /-- While BUSY = 1: how many more host accesses come before the engine step, unless the host has
  none left (R106; log entry 2). -/
  engineWait : Nat
  deriving DecidableEq, Repr

/-- Faults. There are none: "No item's treatment is fault or stuck" (93_implementation_defined.md), no
trap exists (R248), and every command completes (R251). Nothing raises one. -/
inductive Fault where
  deriving DecidableEq, Repr

/-- Refusals. -/
inductive Refusal where
  /-- Raised by an arm of `exec` for a command that has no meaning yet. No arm raises it. Safe. -/
  | notModelled (mnemonic : String)
  deriving DecidableEq, Repr

/-- R270: the engine's state after reset. -/
def Engine.reset : Engine where
  cipher := Cipher.zero
  orderL := .canonical
  pending := 0
  phase := .uninit
  busy := false
  busyErr := false
  err := .noError
  ctrlOrder := .canonical
  ctrlIvExact8 := false
  key := Quad.zero
  iv := Pair.zero
  din := Quad.zero
  dout := Quad.zero

/-- R270, R282: the machine right after reset, no command in flight, the host with nothing to do yet. -/
def State.reset : State where
  toEngine := Engine.reset
  inputs := []
  reads := []
  draws := 0
  engineWait := 0

end Sys2Proof.Machine
end

