-- ==== Sys2Proof/Machine/Flags.lean ====
section
/-! DEFINITION. The flags: the codes of PHASE, ERR and ORDER_L (R25, R27, R240), the STATUS and CTRL
words as a read assembles them (R34, R35, R100), and the carry out of a counter limb (R181). -/

namespace Sys2Proof.Machine

/-- R25, R34: the bit that stands for an order. -/
def TransOrder.bit : TransOrder → Bool
  | .canonical => false
  | .legacy => true

/-- R25, R34: the order a bit selects. -/
def orderOfBit (b : Bool) : TransOrder := if b then .legacy else .canonical

/-- R27: the two bits of PHASE. -/
def Phase.code : Phase → BitVec 2
  | .uninit => 0
  | .keyDone => 1
  | .keyed => 2
  | .streaming => 3

/-- R240: the three bits of ERR. -/
def ErrCode.code : ErrCode → BitVec 3
  | .noError => 0
  | .invalidKeyLength => 1
  | .invalidIvLength => 2
  | .illegalCommand => 3
  | .sequenceError => 4

/-- R35, R100: STATUS, `zext({ORDER_L, ERR, PHASE, BUSYERR, BUSY})`. -/
def statusWord (e : Engine) : Word :=
  (BitVec.ofBool e.orderL.bit ++ e.err.code ++ e.phase.code ++ BitVec.ofBool e.busyErr
    ++ BitVec.ofBool e.busy).setWidth 32

/-- R34, R100: CTRL, `zext({IV_EXACT8, ORDER})`. -/
def ctrlWord (e : Engine) : Word :=
  (BitVec.ofBool e.ctrlIvExact8 ++ BitVec.ofBool e.ctrlOrder.bit).setWidth 32

/-- R90: what `checkerr` takes from a STATUS word, `t[6:4]`. -/
def statusErr (t : Word) : BitVec 3 := t.extractLsb' 4 3

/-- A carry bit as a word, 0 or 1 (R2). -/
def carryWord (carry : Bool) : Word := if carry then 1 else 0

/-- R181: one limb's new value, `C[i] + A[i] + cin` modulo 2^32. -/
def limbSum (old a : Word) (cin : Bool) : Word := old + a + carryWord cin

/-- R181: one limb's carry out: 1 if the new value is below the old one, unsigned. -/
def limbCarry (old a : Word) (cin : Bool) : Bool := decide (limbSum old a cin < old)

end Sys2Proof.Machine
end

