-- ==== Sys2Proof/Machine/Operands.lean ====
section
/-! DEFINITION. The operand forms: shifts and rotation (R3, R4), bytes of words and the word codec
(R5, R52 to R54), the byte mask (R6), the key and IV words a command takes from its registers
(R140, R160), and the register an access names (R51, R56, R57). -/

namespace Sys2Proof.Machine

/-- R4: rotate left by `n`, for `1 ≤ n ≤ 31`. -/
def rotl32 (v : Word) (n : Nat) : Word := (v <<< n) ||| (v >>> (32 - n))

/-- Byte `b` of a word: bits `8b+7 : 8b` (R52). -/
def byteOf (w : Word) (b : Nat) : Byte := w.extractLsb' (8 * b) 8

/-- Byte `j` of a 16-byte buffer held in four words: word `j/4`, byte `j mod 4` (R52). -/
def bufferByte (q : Quad) (j : Fin 16) : Byte :=
  byteOf (q.get ⟨j.val / 4, by omega⟩) (j.val % 4)

/-- Byte `j` of the 8-byte IV buffer held in two words (R52). -/
def ivByte (p : Pair) (j : Fin 8) : Byte :=
  byteOf (p.get ⟨j.val / 4, by omega⟩) (j.val % 4)

/-- R53: word codec, decode, little-endian. -/
def le32 (b0 b1 b2 b3 : Byte) : Word :=
  b0.setWidth 32 ||| (b1.setWidth 32 <<< 8) ||| (b2.setWidth 32 <<< 16) ||| (b3.setWidth 32 <<< 24)

/-- R54: word codec, encode, byte 0 first. -/
def leBytes (w : Word) : List Byte := [byteOf w 0, byteOf w 1, byteOf w 2, byteOf w 3]

/-- The part of R6's mask for byte `b` of word `w`. -/
def maskLane (n w b : Nat) : Word := if 4 * w + b < n then 0xFF#32 <<< (8 * b) else 0

/-- R6: `BYTEMASK(n, w)`. -/
def byteMask (n w : Nat) : Word :=
  maskLane n w 0 ||| maskLane n w 1 ||| maskLane n w 2 ||| maskLane n w 3

/-- R140: the four key words of a key of `len` bytes; bytes at `len` and beyond count as 0. -/
def keyWords (key : Quad) (len : Nat) : Quad :=
  ⟨key.w0 &&& byteMask len 0, key.w1 &&& byteMask len 1,
   key.w2 &&& byteMask len 2, key.w3 &&& byteMask len 3⟩

/-- R160: `iv0` and `iv1` of an IV of `len` bytes; bytes at `len` and beyond count as 0. -/
def ivWords (iv : Pair) (len : Nat) : Pair :=
  ⟨iv.w0 &&& byteMask len 0, iv.w1 &&& byteMask len 1⟩

/-- R51: the register at an offset of the window; none at a reserved or unaligned offset. -/
def regAtOffset (off : Offset) : Option Reg :=
  match off.toNat with
  | 0x00 => some .id
  | 0x04 => some .ctrl
  | 0x08 => some .status
  | 0x0C => some .cmd
  | 0x10 => some (.key 0)
  | 0x14 => some (.key 1)
  | 0x18 => some (.key 2)
  | 0x1C => some (.key 3)
  | 0x20 => some (.iv 0)
  | 0x24 => some (.iv 1)
  | 0x30 => some (.din 0)
  | 0x34 => some (.din 1)
  | 0x38 => some (.din 2)
  | 0x3C => some (.din 3)
  | 0x40 => some (.dout 0)
  | 0x44 => some (.dout 1)
  | 0x48 => some (.dout 2)
  | 0x4C => some (.dout 3)
  | _ => none

/-- R56, R57: the register an access moves: only a 32-bit access has one. -/
def accessReg (off : Offset) (width : Width) : Option Reg :=
  match width with
  | .bits32 => regAtOffset off
  | .bits16 => none
  | .bits8 => none

/-- R51, R89: the offset a register's name stands for. -/
def regOffset : Reg → Offset
  | .id => 0x00
  | .ctrl => 0x04
  | .status => 0x08
  | .cmd => 0x0C
  | .key j => BitVec.ofNat 8 (0x10 + 4 * j.val)
  | .iv j => BitVec.ofNat 8 (0x20 + 4 * j.val)
  | .din j => BitVec.ofNat 8 (0x30 + 4 * j.val)
  | .dout j => BitVec.ofNat 8 (0x40 + 4 * j.val)

end Sys2Proof.Machine
end

