-- ==== Sys2Proof/Machine/Ops.lean ====
section
/-! DEFINITION. The shared operations: ending a command (an error reported as R108 says, or success as
R110 says), issuing and completing one (R104, R105), the host's register accesses (R100, R101, R102),
the reset input (R270), and counting the host's accesses (R106). -/

namespace Sys2Proof.Machine

/-- What a meaning and a step answer. -/
abbrev Result := Host.Outcome State Fault Refusal

/-- R108: `raise CmdError(code)`, this hardware's one way to take an exception: ERR takes the code and
nothing else changes. There is no trap entry and no return from one (R248, R249). -/
def raise (code : ErrCode) (s : State) : Result := .next { s with err := code }

/-- R110: a command that passed every check ends with `STATUS.ERR <- 0`. -/
def succeed (s : State) : Result := .next { s with err := .noError }

/-- R105: `BUSY <- 0`, the end of the engine step. -/
def complete (s : State) : State := { s with busy := false }

/-- R104: a command is issued: PENDING and BUSY are written. The number of host accesses before its
engine step is drawn here (R106). DESIGN CHOICE: it is a function of the number of the draw alone, so two
runs with equal draws have equal latencies, where R106 lets it differ from run to run (log entry 2). -/
def issue (v : Word) (s : State) : State :=
  { s with pending := v, busy := true, engineWait := Config.cmdLatency s.draws, draws := s.draws + 1 }

/-- A command in PENDING with the engine step as the next step: latency 0, an admitted run (R106). -/
def placeCommand (v : Word) (s : State) : State :=
  { s with pending := v, busy := true, engineWait := 0 }

/-- R102: a write dropped because a command is running sets BUSYERR. -/
def dropWrite (s : State) : State := { s with busyErr := true }

/-- R101, R115: a write to STATUS clears BUSYERR where its bit 1 is 1. -/
def writeStatus (v : Word) (s : State) : State :=
  if v.getLsbD 1 then { s with busyErr := false } else s

/-- R101: a write to CTRL; bits 31:2 are ignored. -/
def writeCtrl (v : Word) (s : State) : State :=
  { s with ctrlOrder := orderOfBit (v.getLsbD 0), ctrlIvExact8 := v.getLsbD 1 }

/-- R101: a write to KEY[j]. -/
def writeKey (j : Fin 4) (v : Word) (s : State) : State := { s with key := s.key.set j v }

/-- R101: a write to IV[j]. -/
def writeIv (j : Fin 2) (v : Word) (s : State) : State := { s with iv := s.iv.set j v }

/-- R101: a write to DIN[j]. -/
def writeDin (j : Fin 4) (v : Word) (s : State) : State := { s with din := s.din.set j v }

/-- R101: a 32-bit write to a register while BUSY = 0. ID and DOUT are read-only. -/
def writeReg (r : Reg) (v : Word) (s : State) : State :=
  match r with
  | .id => s
  | .ctrl => writeCtrl v s
  | .status => writeStatus v s
  | .cmd => issue v s
  | .key j => writeKey j v s
  | .iv j => writeIv j v s
  | .din j => writeDin j v s
  | .dout _ => s

/-- R37: the constant ID register. -/
def idValue : Word := 0x52414242

/-- R100: what a 32-bit read of a register returns. KEY, IV and CMD are write-only and read 0. DOUT
while BUSY = 1 is a free value (log entry 4). -/
def readReg (r : Reg) (s : State) : Word :=
  match r with
  | .id => idValue
  | .ctrl => ctrlWord s.toEngine
  | .status => statusWord s.toEngine
  | .cmd => 0
  | .key _ => 0
  | .iv _ => 0
  | .din j => s.din.get j
  | .dout j => if s.busy then Config.doutWhileBusy s.draws else s.dout.get j

/-- Does reading this register draw a free value? Only DOUT while BUSY = 1 (R100). -/
def drawsOnRead (r : Reg) (s : State) : Bool :=
  match r with
  | .dout _ => s.busy
  | .id => false
  | .ctrl => false
  | .status => false
  | .cmd => false
  | .key _ => false
  | .iv _ => false
  | .din _ => false

/-- The next free value has been drawn. -/
def drawn (s : State) : State := { s with draws := s.draws + 1 }

/-- The host has received a value. -/
def received (v : Word) (s : State) : State := { s with reads := s.reads ++ [v] }

/-- One more host access has come before the engine step (R106). -/
def countAccess (s : State) : State := { s with engineWait := s.engineWait - 1 }

/-- R270: the reset input. A running command is abandoned with no part of its effect, and every piece
of engine state takes its reset value. What the host has read and has still to do is the host's (log
entry 9). -/
def resetInput (s : State) : State := { s with toEngine := Engine.reset, engineWait := 0 }

end Sys2Proof.Machine
end

