-- ==== Sys2Proof/Machine/Bus.lean ====
section
/-! DEFINITION. The host's side: BusRead and BusWrite as one step each (40_command_interface.md
section 1), the poll loop, and the expansion of the host assembly lines (R89, R90). -/

namespace Sys2Proof.Machine

/-- R101, R102, R57: BusWrite. An access with no register has no effect; while BUSY = 1 a write to a
register is dropped and recorded. -/
def busWrite (off : Offset) (width : Width) (v : Word) (s : State) : State :=
  match accessReg off width with
  | none => s
  | some r => if s.busy then dropWrite s else writeReg r v s

/-- R100, R57: the value a BusRead returns. -/
def busReadValue (off : Offset) (width : Width) (s : State) : Word :=
  match accessReg off width with
  | none => 0
  | some r => readReg r s

/-- Does this read draw a free value (R100)? -/
def readDraws (off : Offset) (width : Width) (s : State) : Bool :=
  match accessReg off width with
  | none => false
  | some r => drawsOnRead r s

/-- R100: BusRead. The engine's state does not change; the host receives the value. -/
def busRead (off : Offset) (width : Width) (s : State) : State :=
  let s' := received (busReadValue off width s) s
  if readDraws off width s then drawn s' else s'

/-- R90: one turn of the poll loop: read STATUS, and stay in the loop while its bit 0 is 1. The polled
value is the loop's own and is not kept (log entry 11). -/
def pollStatus (rest : List Input) (s : State) : State :=
  if (busReadValue 0x08 .bits32 s).getLsbD 0 then s else { s with inputs := rest }

/-- One thing the outside world does, with what is left to do after it. Every access, the poll's read
too, counts toward the running command's latency (R106). The reset input is no access. -/
def inputStep (a : Input) (rest : List Input) (s : State) : State :=
  match a with
  | .write off width v => busWrite off width v (countAccess { s with inputs := rest })
  | .read off width => busRead off width (countAccess { s with inputs := rest })
  | .wait => pollStatus rest (countAccess s)
  | .reset => resetInput { s with inputs := rest }

/-- R89, R90: what a line of a host program does on the bus. A line outside `HostLine.wf` (log entry 17)
expands by the same formula. -/
def expandLine : HostLine → List Input
  | .wr off v => [.write off .bits32 v]
  | .rd off => [.read off .bits32]
  | .wait => [.wait]
  | .nop => [.write 0x0C .bits32 0x00000000, .wait]
  | .keysetup n => [.write 0x0C .bits32 ((BitVec.ofNat 32 n <<< 8) ||| 0x1), .wait]
  | .ivsetup n => [.write 0x0C .bits32 ((BitVec.ofNat 32 n <<< 8) ||| 0x2), .wait]
  | .crypt n => [.write 0x0C .bits32 ((BitVec.ofNat 32 n <<< 8) ||| 0x3), .wait]
  | .zeroize => [.write 0x0C .bits32 0x00000004, .wait]
  | .cmd v => [.write 0x0C .bits32 v, .wait]
  | .checkerr => [.read 0x08 .bits32]

/-- A host program's inputs, line by line. -/
def expandProgram : List HostLine → List Input
  | [] => []
  | l :: ls => expandLine l ++ expandProgram ls

end Sys2Proof.Machine
end

