-- ==== Sys2Proof/Machine/Transition.lean ====
section
/-! DEFINITION. The state transition unit (43_state_transition.md) and the keystream extractor
(R210, R211): functions of the cipher state, with no command of their own. -/

namespace Sys2Proof.Machine

/-- R180: the counter constants A. -/
def ctrConst : Octet :=
  ⟨0x4D34D34D, 0xD34D34D3, 0x34D34D34, 0x4D34D34D, 0xD34D34D3, 0x34D34D34, 0x4D34D34D, 0xD34D34D3⟩

/-- R21, R183: the 256-bit number eight limbs hold, limb 0 the least significant (CVAL of C, AVAL of A). -/
def octetValue (o : Octet) : Nat :=
  o.w0.toNat + o.w1.toNat * 2 ^ 32 + o.w2.toNat * 2 ^ 64 + o.w3.toNat * 2 ^ 96
    + o.w4.toNat * 2 ^ 128 + o.w5.toNat * 2 ^ 160 + o.w6.toNat * 2 ^ 192 + o.w7.toNat * 2 ^ 224

/-- R181: CTRUPD. Each limb takes the carry out of the one below it, limb 0 the previous CARRY; the
carry out of limb 7 is the next CARRY (R182). -/
def ctrUpdate (c : Octet) (carry : Bool) : Octet × Bool :=
  let k1 := limbCarry c.w0 ctrConst.w0 carry
  let k2 := limbCarry c.w1 ctrConst.w1 k1
  let k3 := limbCarry c.w2 ctrConst.w2 k2
  let k4 := limbCarry c.w3 ctrConst.w3 k3
  let k5 := limbCarry c.w4 ctrConst.w4 k4
  let k6 := limbCarry c.w5 ctrConst.w5 k5
  let k7 := limbCarry c.w6 ctrConst.w6 k6
  let k8 := limbCarry c.w7 ctrConst.w7 k7
  (⟨limbSum c.w0 ctrConst.w0 carry, limbSum c.w1 ctrConst.w1 k1, limbSum c.w2 ctrConst.w2 k2,
    limbSum c.w3 ctrConst.w3 k3, limbSum c.w4 ctrConst.w4 k4, limbSum c.w5 ctrConst.w5 k5,
    limbSum c.w6 ctrConst.w6 k6, limbSum c.w7 ctrConst.w7 k7⟩, k8)

/-- R184: the G function, with the parentheses of that rule (90_conflicts.md C2). -/
def gFun (v : Word) : Word :=
  let a := v &&& 0x0000FFFF
  let b := v >>> 16
  let h := ((((a * a) >>> 17) + (a * b)) >>> 15) + (b * b)
  h ^^^ (v * v)

/-- R186: the mixer's outputs, `g[i] = G(X[i] + K[i])`. -/
def mix (x k : Octet) : Octet := Octet.ofFn fun i => gFun (x.get i + k.get i)

/-- R187: XUPD, the new state words. -/
def xUpdate (g : Octet) : Octet where
  w0 := g.w0 + rotl32 g.w7 16 + rotl32 g.w6 16
  w1 := g.w1 + rotl32 g.w0 8 + g.w7
  w2 := g.w2 + rotl32 g.w1 16 + rotl32 g.w0 16
  w3 := g.w3 + rotl32 g.w2 8 + g.w1
  w4 := g.w4 + rotl32 g.w3 16 + rotl32 g.w2 16
  w5 := g.w5 + rotl32 g.w4 8 + g.w3
  w6 := g.w6 + rotl32 g.w5 16 + rotl32 g.w4 16
  w7 := g.w7 + rotl32 g.w6 8 + g.w5

/-- R188: the canonical transition: the counter first, then the mix of the updated counter. -/
def nextCanonical (s : Cipher) : Cipher :=
  let upd := ctrUpdate s.c s.carry
  { x := xUpdate (mix s.x upd.1), c := upd.1, carry := upd.2 }

/-- R189: the legacy transition: the mix of the old counter, then the same counter update. The spec's
reading of the source's one sentence (log entry 6). -/
def nextLegacy (s : Cipher) : Cipher :=
  let upd := ctrUpdate s.c s.carry
  { x := xUpdate (mix s.x s.c), c := upd.1, carry := upd.2 }

/-- R191: NEXTSTATE. -/
def nextState (order : TransOrder) (s : Cipher) : Cipher :=
  match order with
  | .canonical => nextCanonical s
  | .legacy => nextLegacy s

/-- `n` transitions in one order (R145, R163). -/
def transitions (order : TransOrder) (n : Nat) (s : Cipher) : Cipher :=
  match n with
  | 0 => s
  | n + 1 => nextState order (transitions order n s)

/-- R210: EXTRACT, the four keystream words of a transition, from the state words after it. -/
def extract (x : Octet) : Quad where
  w0 := x.w0 ^^^ (x.w5 >>> 16) ^^^ (x.w3 <<< 16)
  w1 := x.w2 ^^^ (x.w7 >>> 16) ^^^ (x.w5 <<< 16)
  w2 := x.w4 ^^^ (x.w1 >>> 16) ^^^ (x.w7 <<< 16)
  w3 := x.w6 ^^^ (x.w3 >>> 16) ^^^ (x.w1 <<< 16)

/-- R211: the 16 keystream bytes of a transition. -/
def keystreamBytes (ks : Quad) : List Byte :=
  leBytes ks.w0 ++ leBytes ks.w1 ++ leBytes ks.w2 ++ leBytes ks.w3

end Sys2Proof.Machine
end

