-- ==== Sys2Proof/Machine/Control.lean ====
section
/-! DEFINITION. The control commands NOP (R111) and ZEROIZE (R112). -/

namespace Sys2Proof.Machine

/-- R111: NOP. ERR becomes 0 and nothing else changes. -/
def execNop (s : State) : Result := succeed s

/-- R112: everything ZEROIZE clears. The rule's corner case, "the state equals the reset state ... except
CTRL", takes in PENDING, which its pseudocode does not list (log entry 5). -/
def cleared (s : State) : State :=
  { s with
    cipher := Cipher.zero
    orderL := .canonical
    pending := 0
    phase := .uninit
    key := Quad.zero
    iv := Pair.zero
    din := Quad.zero
    dout := Quad.zero
    busyErr := false }

/-- R112: ZEROIZE, allowed in every phase. -/
def execZeroize (s : State) : Result := succeed (cleared s)

end Sys2Proof.Machine
end

