-- ==== Sys2Proof/Machine/Crypt.lean ====
section
/-! DEFINITION. CRYPT: one transition, one extraction and one 16-byte XOR (44_keystream_crypt.md). -/

namespace Sys2Proof.Machine

/-- R214: the output words: `(DIN[k] ^ s_k) & BYTEMASK(LEN, k)`. -/
def cryptOutput (din ks : Quad) (len : Nat) : Quad :=
  ⟨(din.w0 ^^^ ks.w0) &&& byteMask len 0, (din.w1 ^^^ ks.w1) &&& byteMask len 1,
   (din.w2 ^^^ ks.w2) &&& byteMask len 2, (din.w3 ^^^ ks.w3) &&& byteMask len 3⟩

/-- R28, R219: may CRYPT run in this phase? -/
def keystreamPhase : Phase → Bool
  | .uninit => false
  | .keyDone => false
  | .keyed => true
  | .streaming => true

/-- R213: the block itself, for LEN > 0: the transition, then the extraction from the new X. -/
def cryptBlock (len : Nat) (s : State) : State :=
  let next := nextState s.orderL s.cipher
  { s with cipher := next, dout := cryptOutput s.din (extract next.x) len }

/-- R213: CRYPT. With LEN = 0 there is no transition and DOUT keeps its value (R215). LEN over 16 is
ILLEGAL (R243): DECODE answers so first, and no such term reaches this meaning from a command word. -/
def execCrypt (len : Nat) (s : State) : Result :=
  if 16 < len then raise .illegalCommand s
  else if keystreamPhase s.phase then
    succeed { (if len = 0 then s else cryptBlock len s) with phase := .streaming }
  else raise .sequenceError s

end Sys2Proof.Machine
end

