-- ==== Sys2Proof/Machine/IvSchedule.lean ====
section
/-! DEFINITION. The IV schedule and IV_SETUP (42_iv_schedule.md). -/

namespace Sys2Proof.Machine

/-- R161: `iv2`, the high half of `iv1` over the high half of `iv0`. -/
def iv2Word (iv : Pair) : Word := (iv.w1 &&& 0xFFFF0000) ||| (iv.w0 >>> 16)

/-- R161: `iv3`, the low half of `iv1` over the low half of `iv0`. -/
def iv3Word (iv : Pair) : Word := (iv.w1 <<< 16) ||| (iv.w0 &&& 0x0000FFFF)

/-- R162: the counter perturbation. X and CARRY do not change. -/
def ivPerturb (iv : Pair) (s : Cipher) : Cipher :=
  { s with
    c :=
      { w0 := s.c.w0 ^^^ iv.w0
        w1 := s.c.w1 ^^^ iv2Word iv
        w2 := s.c.w2 ^^^ iv.w1
        w3 := s.c.w3 ^^^ iv3Word iv
        w4 := s.c.w4 ^^^ iv.w0
        w5 := s.c.w5 ^^^ iv2Word iv
        w6 := s.c.w6 ^^^ iv.w1
        w7 := s.c.w7 ^^^ iv3Word iv } }

/-- R160 to R163: the IV schedule. -/
def ivSchedule (order : TransOrder) (iv : Pair) (s : Cipher) : Cipher :=
  transitions order 4 (ivPerturb iv s)

/-- R165: is LEN a legal IV length under the policy CTRL.IV_EXACT8? -/
def ivLengthOk (exact8 : Bool) (len : Nat) : Bool :=
  if exact8 then decide (len = 8) else decide (1 ≤ len ∧ len ≤ 8)

/-- R165: IV_SETUP. The length check comes before the phase check (R109). -/
def execIvSetup (len : Nat) (s : State) : Result :=
  if ivLengthOk s.ctrlIvExact8 len then
    if s.phase = .keyDone then
      succeed
        { s with
          cipher := ivSchedule s.orderL (ivWords s.iv len) s.cipher
          phase := .keyed }
    else raise .sequenceError s
  else raise .invalidIvLength s

end Sys2Proof.Machine
end

