-- ==== Sys2Proof/Machine/KeySchedule.lean ====
section
/-! DEFINITION. The key schedule and KEY_SETUP (41_key_schedule.md). -/

namespace Sys2Proof.Machine

/-- R141 to R144: the initial cipher state from the key words. The odd counter words are R143's
published form (90_conflicts.md C1; log entry 6). -/
def keyInit (k : Quad) : Cipher where
  x :=
    { w0 := k.w0
      w1 := (k.w3 <<< 16) ||| (k.w2 >>> 16)
      w2 := k.w1
      w3 := (k.w0 <<< 16) ||| (k.w3 >>> 16)
      w4 := k.w2
      w5 := (k.w1 <<< 16) ||| (k.w0 >>> 16)
      w6 := k.w3
      w7 := (k.w2 <<< 16) ||| (k.w1 >>> 16) }
  c :=
    { w0 := (k.w2 <<< 16) ||| (k.w2 >>> 16)
      w1 := (k.w0 &&& 0xFFFF0000) ||| (k.w1 &&& 0x0000FFFF)
      w2 := (k.w3 <<< 16) ||| (k.w3 >>> 16)
      w3 := (k.w1 &&& 0xFFFF0000) ||| (k.w2 &&& 0x0000FFFF)
      w4 := (k.w0 <<< 16) ||| (k.w0 >>> 16)
      w5 := (k.w2 &&& 0xFFFF0000) ||| (k.w3 &&& 0x0000FFFF)
      w6 := (k.w1 <<< 16) ||| (k.w1 >>> 16)
      w7 := (k.w3 &&& 0xFFFF0000) ||| (k.w0 &&& 0x0000FFFF) }
  carry := false

/-- R146: `C[i] <- C[i] ^ X[(i + 4) mod 8]` for every `i`. -/
def counterReinit (s : Cipher) : Cipher :=
  { s with c := Octet.ofFn fun i => s.c.get i ^^^ s.x.get (i + 4) }

/-- R140 to R146: KEYSCHED. -/
def keySchedule (order : TransOrder) (k : Quad) : Cipher :=
  counterReinit (transitions order 4 (keyInit k))

/-- R147: is LEN a legal key length? -/
def keyLengthOk (len : Nat) : Bool := decide (1 ≤ len ∧ len ≤ 16)

/-- R147: KEY_SETUP. It has no phase check. -/
def execKeySetup (len : Nat) (s : State) : Result :=
  if keyLengthOk len then
    succeed
      { s with
        orderL := s.ctrlOrder
        cipher := keySchedule s.ctrlOrder (keyWords s.key len)
        phase := .keyDone }
  else raise .invalidKeyLength s

end Sys2Proof.Machine
end

