-- ==== Sys2Proof/Machine/Dispatch.lean ====
section
/-! DEFINITION. EXEC's dispatch on the decoded command (R107): one arm per command. -/

namespace Sys2Proof.Machine

def exec (i : Instr) (s : State) : Host.Outcome State Fault Refusal :=
  match i with
  | .nop => Sys2Proof.Machine.execNop s
  | .keySetup len => Sys2Proof.Machine.execKeySetup len s
  | .ivSetup len => Sys2Proof.Machine.execIvSetup len s
  | .crypt len => Sys2Proof.Machine.execCrypt len s
  | .zeroize => Sys2Proof.Machine.execZeroize s

end Sys2Proof.Machine
end

