-- ==== Sys2Proof/Machine/Engine.lean ====
section
/-! DEFINITION. Whose turn it is (R105, R106) and the engine's step, EXEC(DECODE(PENDING)) and then
BUSY <- 0. -/

namespace Sys2Proof.Machine

/-- Is the next step the engine's? It is enabled exactly when BUSY = 1 (R105), and it is taken when the
command's latency has run out, or when the host has nothing left to do (R106; log entry 2). -/
def engineTurn (s : State) : Bool := s.busy && (s.engineWait == 0 || s.inputs.isEmpty)

/-- R107: EXEC(DECODE(PENDING)): ILLEGAL raises ILLEGAL_COMMAND. -/
def execPending (s : State) : Result :=
  match decode s.pending with
  | .command i => exec i s
  | .illegal _ => raise .illegalCommand s

/-- R105: the end of the engine step: `BUSY <- 0`. -/
def finish : Result → Result
  | .next t => .next (complete t)
  | .fault f => .fault f
  | .refused r => .refused r

/-- R105: the engine step, one indivisible transition. -/
def engineStep (s : State) : Result := finish (execPending s)

/-- One step of the machine: the engine's where it is the engine's turn, else the host's next input;
with no command running and no input left the machine waits (R272, R283; log entry 7). -/
def machineStep (s : State) : Result :=
  if engineTurn s then engineStep s
  else
    match s.inputs with
    | [] => .next s
    | a :: rest => .next (inputStep a rest s)

end Sys2Proof.Machine
end

