-- ==== Sys2Proof/Machine/Step.lean ====
section
/-! DEFINITION. The step function, and the placing of a command where the next step runs it. -/

namespace Sys2Proof.Machine

/-- One step: an engine step or one host input (Machine/Engine.lean). -/
def step (s : State) : Host.Outcome State Fault Refusal := machineStep s

/-- `s` with a command word latched in PENDING and BUSY = 1, as a CMD write leaves it, and with the
engine step as the very next step (latency 0). The engine fetches nothing from memory (R31, R62): this
stands for the host's CMD write (log entry 8). -/
def State.withFetchWord (s : State) (nbits w : Nat) : State := placeCommand (commandWord nbits w) s

end Sys2Proof.Machine
end

