-- ==== Sys2Proof/Safety.lean ====
section
/-! DEFINITION. The terms claims are stated in: the invariant of the phase machine, the end of a run, and
the host driver's sequence of CRYPT commands. -/

namespace Sys2Proof.Machine

/-- In phase UNINIT the engine holds nothing of any stream: X, C and CARRY are 0, ORDER_L is canonical and
DOUT is 0. (Only reset and ZEROIZE lead to UNINIT, R27, and both clear these, R112 and R270; only a
successful KEY_SETUP, IV_SETUP or CRYPT writes them, and each leaves UNINIT.) -/
def State.Inv (s : State) : Prop :=
  s.phase = .uninit →
    s.cipher = Cipher.zero ∧ s.orderL = .canonical ∧ s.dout = Quad.zero

/-- R283: the run has ended: the host has made its last access, and no command is running. -/
def State.ended (s : State) : Prop := s.inputs = [] ∧ s.busy = false

/-- `n` steps lead from `s` to `t`, every one of them answering a next state. -/
def State.reaches (s : State) (n : Nat) (t : State) : Prop :=
  match n with
  | 0 => s = t
  | n + 1 => ∃ u, step s = .next u ∧ State.reaches u n t

/-- The next step is the engine's, and it runs command `i` (R105). -/
def State.runs (s : State) (i : Instr) : Prop :=
  engineTurn s = true ∧ decode s.pending = .command i

/-- The next step is the host's, and its input is `a` (R59). -/
def State.takes (s : State) (a : Input) : Prop :=
  engineTurn s = false ∧ ∃ rest, s.inputs = a :: rest

/-- A byte offset at which a 32-bit access reaches a register (R51, R102): a multiple of 4 in `0x00`-`0x27`
or `0x30`-`0x4F`. -/
def mappedOffset (off : Offset) : Prop :=
  off.toNat % 4 = 0 ∧ (off.toNat ≤ 0x27 ∨ (0x30 ≤ off.toNat ∧ off.toNat ≤ 0x4F))

/-- R218: the host driver's CRYPTs over consecutive chunks: for each chunk its 16-byte input block is put
in DIN and `crypt len` is executed. The list of the DOUT blocks; it stops at an error. -/
def cryptChunks (s : State) : List (Quad × Nat) → List Quad
  | [] => []
  | (din, len) :: rest =>
    match exec (.crypt len) { s with din := din } with
    | .next t => if t.err = .noError then t.dout :: cryptChunks t rest else []
    | .fault _ => []
    | .refused _ => []

/-- R217, R221: the keystream block of the `k`-th transition after a cipher state, counting from 0. -/
def keystreamBlock (order : TransOrder) (s : Cipher) (k : Nat) : Quad :=
  extract (transitions order (k + 1) s).x

end Sys2Proof.Machine
end

