-- ==== Sys2Proof/Certificates/Slice0/Obligations.lean ====
section
/-! DEFINITION. The statements for the provers, in the order of the spec's files. -/

open Sys2Proof Sys2Proof.Machine

/-! ## Words, bytes and masks (00_scope.md, 20_memory.md) -/

/-- R6: BYTEMASK(n, w) keeps byte `b` of word `w` exactly when `4w + b < n`. -/
def Obligations.ByteMaskKeepsTheFirstBytes : Prop :=
  ∀ (v : Word) (n w b : Nat), b < 4 →
    byteOf (v &&& byteMask n w) b = if 4 * w + b < n then byteOf v b else 0

/-- R53, R54: the word codec's two directions, each by its formula, are inverse to each other. -/
def Obligations.WordCodecIsLittleEndianAndInverse : Prop :=
  ∀ (w : Word) (b0 b1 b2 b3 : Byte),
    le32 b0 b1 b2 b3
      = b0.setWidth 32 ||| b1.setWidth 32 <<< 8 ||| b2.setWidth 32 <<< 16 ||| b3.setWidth 32 <<< 24
    ∧ leBytes w = [w.extractLsb' 0 8, w.extractLsb' 8 8, w.extractLsb' 16 8, w.extractLsb' 24 8]
    ∧ le32 (w.extractLsb' 0 8) (w.extractLsb' 8 8) (w.extractLsb' 16 8) (w.extractLsb' 24 8) = w
    ∧ leBytes (le32 b0 b1 b2 b3) = [b0, b1, b2, b3]

/-- R4: ROTL32, by its formula, moves every bit `n` positions up, around the end of the 32-bit word. -/
def Obligations.RotationMovesEveryBit : Prop :=
  ∀ (v : Word) (n i : Nat), 1 ≤ n → n ≤ 31 → i < 32 →
    rotl32 v n = v <<< n ||| v >>> (32 - n)
    ∧ (rotl32 v n).getLsbD i = v.getLsbD ((i + (32 - n)) % 32)

/-! ## Command words (30_encoding.md) -/

/-- Every well-formed command comes back from its own command word. -/
def Obligations.EncodedCommandDecodes : Prop :=
  ∀ i : Instr, i.wf = true → decode (encode i) = .command i

/-- A word that decodes to a command is that command's only word, and the command is well-formed. -/
def Obligations.DecodedWordIsTheOnlyEncoding : Prop :=
  ∀ (w : Word) (i : Instr), decode w = .command i → i.wf = true ∧ encode i = w

/-- R86: DECODE, case by case over the fields of the word. -/
def Obligations.DecodeSplitsEveryWord : Prop :=
  ∀ w : Word,
    let op := (w.extractLsb' 0 4).toNat
    let len := (w.extractLsb' 8 5).toNat
    let legal := w.extractLsb' 13 19 = 0 ∧ w.extractLsb' 4 4 = 0
    (decode w = .command .nop ↔ legal ∧ op = 0 ∧ len = 0)
    ∧ (∀ n, decode w = .command (.keySetup n) ↔ legal ∧ op = 1 ∧ len = n)
    ∧ (∀ n, decode w = .command (.ivSetup n) ↔ legal ∧ op = 2 ∧ len = n)
    ∧ (∀ n, decode w = .command (.crypt n) ↔ legal ∧ op = 3 ∧ len = n ∧ n ≤ 16)
    ∧ (decode w = .command .zeroize ↔ legal ∧ op = 4 ∧ len = 0)
    ∧ ((∃ why, decode w = .illegal why) ↔
        ¬ legal ∨ ((op = 0 ∨ op = 4) ∧ len ≠ 0) ∨ (op = 3 ∧ 16 < len) ∨ 5 ≤ op)

/-- R85: the opcode map's match and mask agree with DECODE: a word matches a row exactly when it decodes
to that row's command, but for a CRYPT word with LEN over 16, which matches and is ILLEGAL. -/
def Obligations.OpcodeRowsAgreeWithDecode : Prop :=
  ∀ w : Word,
    (w &&& 0xFFFFFFFF = 0x00000000 ↔ decode w = .command .nop)
    ∧ (w &&& 0xFFFFE0FF = 0x00000001 ↔ decode w = .command (.keySetup (w.extractLsb' 8 5).toNat))
    ∧ (w &&& 0xFFFFE0FF = 0x00000002 ↔ decode w = .command (.ivSetup (w.extractLsb' 8 5).toNat))
    ∧ (w &&& 0xFFFFE0FF = 0x00000003 ↔
        decode w = .command (.crypt (w.extractLsb' 8 5).toNat)
        ∨ (decode w = .illegal .cryptLength ∧ 16 < (w.extractLsb' 8 5).toNat))
    ∧ (w &&& 0xFFFFFFFF = 0x00000004 ↔ decode w = .command .zeroize)
    ∧ opcodeRows.map (fun r => (r.pattern, r.mask)) =
        [(0x00000000, 0xFFFFFFFF), (0x00000001, 0xFFFFE0FF), (0x00000002, 0xFFFFE0FF),
         (0x00000003, 0xFFFFE0FF), (0x00000004, 0xFFFFFFFF)]

/-- A few words of 95_test_vectors.md section 2.2, one for each command and four ILLEGAL ones. -/
def Obligations.ExampleWordsDecode : Prop :=
  decode 0x00000000 = .command .nop ∧ decode 0x00001001 = .command (.keySetup 16)
  ∧ decode 0x00001101 = .command (.keySetup 17) ∧ decode 0x00000802 = .command (.ivSetup 8)
  ∧ decode 0x00000403 = .command (.crypt 4) ∧ decode 0x00000004 = .command .zeroize
  ∧ decode 0x00000100 = .illegal .nopLength ∧ decode 0x00001103 = .illegal .cryptLength
  ∧ decode 0x00000005 = .illegal .unknownOp ∧ decode 0x00002001 = .illegal .reservedBits

/-- R90: each command pseudo-instruction writes to CMD a word that decodes to its command, and waits. The
range 0 to 31 of `ivsetup n` is the model's choice (log entry 17), as is the poll loop's being one input
(log entry 12). -/
def Obligations.PseudoInstructionsIssueTheirCommand : Prop :=
  (∀ n, (HostLine.keysetup n).wf = true → ∃ w,
    expandLine (.keysetup n) = [.write 0x0C .bits32 w, .wait] ∧ decode w = .command (.keySetup n))
  ∧ (∀ n, (HostLine.ivsetup n).wf = true → ∃ w,
    expandLine (.ivsetup n) = [.write 0x0C .bits32 w, .wait] ∧ decode w = .command (.ivSetup n))
  ∧ (∀ n, (HostLine.crypt n).wf = true → ∃ w,
    expandLine (.crypt n) = [.write 0x0C .bits32 w, .wait] ∧ decode w = .command (.crypt n))
  ∧ (∃ w, expandLine .nop = [.write 0x0C .bits32 w, .wait] ∧ decode w = .command .nop)
  ∧ (∃ w, expandLine .zeroize = [.write 0x0C .bits32 w, .wait] ∧ decode w = .command .zeroize)

/-! ## The register window (20_memory.md, 40_command_interface.md section 1) -/

/-- R51: every register stands at its offset and nowhere else, and the other offsets hold none. -/
def Obligations.WindowHoldsEachRegisterAtItsOffset : Prop :=
  (∀ (off : Offset) (r : Reg), regAtOffset off = some r ↔ regOffset r = off)
  ∧ regOffset .id = 0x00 ∧ regOffset .ctrl = 0x04 ∧ regOffset .status = 0x08 ∧ regOffset .cmd = 0x0C
  ∧ (∀ j : Fin 4, (regOffset (.key j)).toNat = 0x10 + 4 * j.val)
  ∧ (∀ j : Fin 2, (regOffset (.iv j)).toNat = 0x20 + 4 * j.val)
  ∧ (∀ j : Fin 4, (regOffset (.din j)).toNat = 0x30 + 4 * j.val)
  ∧ (∀ j : Fin 4, (regOffset (.dout j)).toNat = 0x40 + 4 * j.val)
  ∧ (∀ off : Offset, regAtOffset off = none ↔ ¬ mappedOffset off)

/-- R100: what each 32-bit read returns; a read changes no engine state. DOUT while BUSY = 1 is the free
value of log entry 4, and each such read takes the next one. That the value read is kept at the end of the
list `reads` is the model's choice (log entry 11). -/
def Obligations.BusReadReturnsTheRegister : Prop :=
  ∀ s : State,
    busReadValue 0x00 .bits32 s = 0x52414242
    ∧ (busReadValue 0x04 .bits32 s).toNat
        = (if s.ctrlOrder = .legacy then 1 else 0) + (if s.ctrlIvExact8 = true then 2 else 0)
    ∧ (busReadValue 0x08 .bits32 s).toNat
        = (if s.busy = true then 1 else 0) + (if s.busyErr = true then 2 else 0)
          + 4 * s.phase.code.toNat + 16 * s.err.code.toNat + (if s.orderL = .legacy then 128 else 0)
    ∧ busReadValue 0x0C .bits32 s = 0
    ∧ (∀ j : Fin 4, busReadValue (regOffset (.key j)) .bits32 s = 0)
    ∧ (∀ j : Fin 2, busReadValue (regOffset (.iv j)) .bits32 s = 0)
    ∧ (∀ j : Fin 4, busReadValue (regOffset (.din j)) .bits32 s = s.din.get j)
    ∧ (∀ j : Fin 4, s.busy = false → busReadValue (regOffset (.dout j)) .bits32 s = s.dout.get j)
    ∧ (∀ j : Fin 4, s.busy = true →
        busReadValue (regOffset (.dout j)) .bits32 s = Config.doutWhileBusy s.draws
        ∧ (busRead (regOffset (.dout j)) .bits32 s).draws = s.draws + 1)
    ∧ (∀ off width, width ≠ .bits32 ∨ ¬ mappedOffset off → busReadValue off width s = 0)
    ∧ (∀ off width, (busRead off width s).toEngine = s.toEngine
        ∧ (busRead off width s).reads = s.reads ++ [busReadValue off width s])

/-- The numbers that stand for the phases, the result codes and the orders (tables of R27 and R240, and
R25). -/
def Obligations.StatusCodesAreTheSpecs : Prop :=
  Phase.uninit.code = 0 ∧ Phase.keyDone.code = 1 ∧ Phase.keyed.code = 2 ∧ Phase.streaming.code = 3
  ∧ ErrCode.noError.code = 0 ∧ ErrCode.invalidKeyLength.code = 1 ∧ ErrCode.invalidIvLength.code = 2
  ∧ ErrCode.illegalCommand.code = 3 ∧ ErrCode.sequenceError.code = 4
  ∧ TransOrder.canonical.bit = false ∧ TransOrder.legacy.bit = true

/-- R57: an access that is narrower than 32 bits, unaligned, or at a reserved offset has no effect, also
while BUSY = 1, and reads 0. -/
def Obligations.AccessWithoutRegisterHasNoEffect : Prop :=
  ∀ (off : Offset) (width : Width) (v : Word) (s : State),
    width ≠ .bits32 ∨ off.toNat % 4 ≠ 0 ∨ (0x28 ≤ off.toNat ∧ off.toNat ≤ 0x2F) ∨ 0x50 ≤ off.toNat →
    busWrite off width v s = s ∧ busReadValue off width s = 0
    ∧ (busRead off width s).toEngine = s.toEngine

/-- R102: while BUSY = 1 a 32-bit write at a mapped offset only sets BUSYERR, and the accesses of R57
still have no effect. -/
def Obligations.WriteWhileBusyOnlySetsBusyErr : Prop :=
  ∀ (off : Offset) (width : Width) (v : Word) (s : State), s.busy = true →
    (width = .bits32 → mappedOffset off → busWrite off width v s = { s with busyErr := true })
    ∧ (width ≠ .bits32 ∨ ¬ mappedOffset off → busWrite off width v s = s)

/-- R101, R104: what each 32-bit write does while BUSY = 0, with everything it leaves unchanged. -/
def Obligations.IdleWriteReachesItsRegister : Prop :=
  ∀ (v : Word) (s : State), s.busy = false →
    busWrite 0x00 .bits32 v s = s
    ∧ busWrite 0x04 .bits32 v s
        = { s with
            ctrlOrder := if v.getLsbD 0 then .legacy else .canonical
            ctrlIvExact8 := v.getLsbD 1 }
    ∧ busWrite 0x08 .bits32 v s = { s with busyErr := s.busyErr && !v.getLsbD 1 }
    ∧ (busWrite 0x0C .bits32 v s).toEngine = { s.toEngine with pending := v, busy := true }
    ∧ (∀ j : Fin 4, busWrite (regOffset (.key j)) .bits32 v s = { s with key := s.key.set j v })
    ∧ (∀ j : Fin 2, busWrite (regOffset (.iv j)) .bits32 v s = { s with iv := s.iv.set j v })
    ∧ (∀ j : Fin 4, busWrite (regOffset (.din j)) .bits32 v s = { s with din := s.din.set j v })
    ∧ (∀ j : Fin 4, busWrite (regOffset (.dout j)) .bits32 v s = s)
    ∧ (∀ off, ¬ mappedOffset off → busWrite off .bits32 v s = s)

/-- R115: a write of 1 to STATUS bit 1 while BUSY = 0 clears BUSYERR, a write of 0 to it has no effect,
and only such a write, ZEROIZE and the reset input ever clear it, and no other command; whatever it holds,
the commands run alike. -/
def Obligations.BusyErrClearedOnlyByWriteZeroizeReset : Prop :=
  (∀ (v : Word) (s : State), s.busy = false →
    (v.getLsbD 1 = true → busWrite 0x08 .bits32 v s = { s with busyErr := false })
    ∧ (v.getLsbD 1 = false → busWrite 0x08 .bits32 v s = s))
  ∧ (∀ s t : State, step s = .next t → s.busyErr = true → t.busyErr = false →
      (∃ v : Word, s.takes (.write 0x08 .bits32 v) ∧ v.getLsbD 1 = true ∧ s.busy = false)
      ∨ s.runs .zeroize ∨ s.takes .reset)
  ∧ (∀ (i : Instr) (s t : State) (b : Bool), i ≠ .zeroize → exec i s = .next t →
      exec i { s with busyErr := b } = .next { t with busyErr := b })

/-- BUSYERR is set only by a 32-bit host write at a mapped offset while BUSY = 1 (R102, R245). -/
def Obligations.BusyErrSetOnlyByDroppedWrite : Prop :=
  ∀ s t : State, step s = .next t → s.busyErr = false → t.busyErr = true →
    s.busy = true ∧ ∃ (off : Offset) (v : Word), s.takes (.write off .bits32 v) ∧ mappedOffset off

/-- No read shows X, C, CARRY, PENDING, KEY or IV: states that agree on everything else read alike at
every offset and width (R20 to R22, R26, R29, R30). For DOUT while BUSY = 1 this is the model's choice (log
entry 4): the free value is a function of the number of the draw alone, so `draws` must agree, whereas R100
allows any value there. -/
def Obligations.ReadsRevealNoHiddenState : Prop :=
  ∀ (s t : State) (off : Offset) (width : Width),
    s.orderL = t.orderL → s.phase = t.phase → s.busy = t.busy → s.busyErr = t.busyErr → s.err = t.err →
    s.ctrlOrder = t.ctrlOrder → s.ctrlIvExact8 = t.ctrlIvExact8 → s.din = t.din → s.dout = t.dout →
    s.draws = t.draws →
    busReadValue off width s = busReadValue off width t

/-- R276: while BUSY = 1 a host access leaves the whole engine but BUSYERR as it was, so ERR, PHASE and
ORDER_L still show the values from before the running command. -/
def Obligations.HostAccessWhileBusyKeepsTheEngine : Prop :=
  ∀ s t : State, s.busy = true → engineTurn s = false → ¬ s.takes .reset → step s = .next t →
    t.toEngine = { s.toEngine with busyErr := t.busyErr }

/-! ## The step (40_command_interface.md section 2) -/

/-- R105: the engine step runs the decoded command and then clears BUSY. The second clause, on whose turn
it is, is the model's choice (log entry 2): with BUSY = 1 the engine step is the next step exactly when
`engineWait` has run out or the host has no input left. -/
def Obligations.EngineStepRunsTheDecodedCommand : Prop :=
  (∀ (s t : State) (i : Instr), s.runs i → exec i s = .next t → step s = .next { t with busy := false })
  ∧ (∀ s : State, engineTurn s = true ↔ s.busy = true ∧ (s.engineWait = 0 ∨ s.inputs = []))

/-- A command word placed by `withFetchWord` is run by the next step, with nothing else of the engine
changed before it. The placing, and `engineWait` at 0, are the model's choice (log entries 2 and 8). -/
def Obligations.PlacedCommandRunsNext : Prop :=
  ∀ (s : State) (w : Word) (i : Instr), decode w = .command i →
    ∃ s' : State, s' = { s with pending := w, busy := true, engineWait := 0 }
      ∧ s.withFetchWord 32 w.toNat = s'
      ∧ ∀ t, exec i s' = .next t → step (s.withFetchWord 32 w.toNat) = .next { t with busy := false }

/-- R243: a word with a reserved bit set, OP over 4, NOP or ZEROIZE with LEN not 0, or CRYPT with LEN over
16, completes in every phase with ILLEGAL_COMMAND and changes nothing but ERR and BUSY. -/
def Obligations.IllegalWordReportsIllegalCommand : Prop :=
  ∀ s : State, engineTurn s = true →
    (s.pending.extractLsb' 13 19 ≠ 0 ∨ s.pending.extractLsb' 4 4 ≠ 0
      ∨ 5 ≤ (s.pending.extractLsb' 0 4).toNat
      ∨ (((s.pending.extractLsb' 0 4).toNat = 0 ∨ (s.pending.extractLsb' 0 4).toNat = 4)
          ∧ (s.pending.extractLsb' 8 5).toNat ≠ 0)
      ∨ ((s.pending.extractLsb' 0 4).toNat = 3 ∧ 16 < (s.pending.extractLsb' 8 5).toNat)) →
    step s = .next { s with err := .illegalCommand, busy := false }

/-- Where it is not the engine's turn, a step is the host's next input (R59, R60). The model's choices in
it: the list of inputs (log entry 1); that each input but reset counts as one access of the latency (R106;
log entry 2); that with no input left the state stays as it is (log entry 7); that the poll loop is one
input, which stays at the head of the list while BUSY = 1 and whose own value is not kept (log entries 11
and 12); and that the reset input leaves the host's fields and sets `engineWait` to 0 (log entry 9). -/
def Obligations.HostStepIsItsNextInput : Prop :=
  ∀ s : State, engineTurn s = false →
    (s.inputs = [] → step s = .next s)
    ∧ (∀ off width v rest, s.inputs = .write off width v :: rest →
        step s = .next (busWrite off width v { s with inputs := rest, engineWait := s.engineWait - 1 }))
    ∧ (∀ off width rest, s.inputs = .read off width :: rest →
        step s = .next (busRead off width { s with inputs := rest, engineWait := s.engineWait - 1 }))
    ∧ (∀ rest, s.inputs = .wait :: rest →
        step s = .next { s with
          inputs := if s.busy = true then s.inputs else rest
          engineWait := s.engineWait - 1 })
    ∧ (∀ rest, s.inputs = .reset :: rest →
        step s = .next { s with toEngine := Engine.reset, inputs := rest, engineWait := 0 })

/-- R251: nothing stops the engine: every step of every state answers a next state. -/
def Obligations.EveryStepAnswersNext : Prop :=
  ∀ s : State, ∃ t : State, step s = .next t

/-- R106's liveness, as the model holds it: with a command running and no reset to come, the engine step is
reached after at most `engineWait` host accesses, and until then the engine keeps everything but BUSYERR.
The bound `engineWait`, and the engine's turn where the host has no input left, are the model's choice (log
entry 2); that every latency is finite is its reading of R106's fairness (log entry 3). -/
def Obligations.EngineStepComesAfterFinitelyManyAccesses : Prop :=
  ∀ s : State, s.busy = true → Input.reset ∉ s.inputs →
    ∃ (n : Nat) (t : State), n ≤ s.engineWait ∧ s.reaches n t
      ∧ engineTurn t = true ∧ t.toEngine = { s.toEngine with busyErr := t.busyErr }

/-- R283 with R106: from every state the run ends: the host makes its last access and BUSY = 0, whatever
the latencies; and from then on no step changes anything. It rests on the model's choices and readings: the
engine has the turn where the host has no input left (log entry 2), every latency is finite (log entry 3),
and with nothing to do a step leaves the state as it is (log entry 7). -/
def Obligations.EveryHostProgramRunEnds : Prop :=
  (∀ s : State, ∃ (n : Nat) (t : State), s.reaches n t ∧ t.ended)
  ∧ (∀ s : State, s.ended → step s = .next s)

/-! ## Control commands -/

/-- R111: NOP. -/
def Obligations.NopOnlyClearsErr : Prop :=
  ∀ s : State, exec .nop s = .next { s with err := .noError }

/-- R112: ZEROIZE. PENDING is 0 by the rule's corner case: its pseudocode does not list it (log
entry 5). -/
def Obligations.ZeroizeClearsAllButCtrl : Prop :=
  ∀ s : State, exec .zeroize s = .next
    { s with
      cipher := { x := Octet.ofFn fun _ => 0, c := Octet.ofFn fun _ => 0, carry := false }
      orderL := .canonical
      pending := 0
      phase := .uninit
      key := Quad.ofFn fun _ => 0
      din := Quad.ofFn fun _ => 0
      dout := Quad.ofFn fun _ => 0
      iv := { w0 := 0, w1 := 0 }
      busyErr := false
      err := .noError }

/-- After the engine step of ZEROIZE the engine is as after reset, except CTRL, which keeps its value
(R112). -/
def Obligations.ZeroizeStepLeavesResetStateButCtrl : Prop :=
  ∀ s : State, s.runs .zeroize → ∃ t : State, step s = .next t
    ∧ t.toEngine = { Engine.reset with
        ctrlOrder := s.ctrlOrder, ctrlIvExact8 := s.ctrlIvExact8 }

/-! ## KEY_SETUP (41_key_schedule.md) -/

/-- R147: KEY_SETUP, with its length error, its result and all it leaves unchanged. -/
def Obligations.KeySetupSchedulesOrRejectsTheKey : Prop :=
  ∀ (len : Nat) (s : State),
    (len < 1 ∨ 16 < len → exec (.keySetup len) s = .next { s with err := .invalidKeyLength })
    ∧ (1 ≤ len → len ≤ 16 →
        let k := Quad.ofFn fun i => s.key.get i &&& byteMask len i.val
        let next := nextState s.ctrlOrder
        let four := next (next (next (next (keyInit k))))
        exec (.keySetup len) s = .next
          { s with
            orderL := s.ctrlOrder
            cipher := { four with c := Octet.ofFn fun i => four.c.get i ^^^ four.x.get (i + 4) }
            phase := .keyDone
            err := .noError })

/-- R141 to R144: the initial state and counter words, by halves of the key words, and CARRY 0. -/
def Obligations.KeyInitialStateFromKeyHalves : Prop :=
  ∀ k : Quad,
    let hi := fun w : Word => w.extractLsb' 16 16
    let lo := fun w : Word => w.extractLsb' 0 16
    (keyInit k).x =
      { w0 := k.w0, w1 := lo k.w3 ++ hi k.w2, w2 := k.w1, w3 := lo k.w0 ++ hi k.w3,
        w4 := k.w2, w5 := lo k.w1 ++ hi k.w0, w6 := k.w3, w7 := lo k.w2 ++ hi k.w1 }
    ∧ (keyInit k).c =
      { w0 := rotl32 k.w2 16, w1 := hi k.w0 ++ lo k.w1, w2 := rotl32 k.w3 16, w3 := hi k.w1 ++ lo k.w2,
        w4 := rotl32 k.w0 16, w5 := hi k.w2 ++ lo k.w3, w6 := rotl32 k.w1 16, w7 := hi k.w3 ++ lo k.w0 }
    ∧ (keyInit k).carry = false

/-- R140: key word `i` is LE32 of key bytes 4i to 4i+3, where bytes at LEN and beyond count as 0. -/
def Obligations.KeyWordsReadOnlyTheFirstBytes : Prop :=
  ∀ (key : Quad) (len : Nat) (i : Fin 4),
    let byte := fun b : Fin 4 =>
      if 4 * i.val + b.val < len then bufferByte key (Fin.ofNat 16 (4 * i.val + b.val)) else 0
    (keyWords key len).get i = le32 (byte 0) (byte 1) (byte 2) (byte 3)

/-- R148: the result of a successful KEY_SETUP depends only on the first LEN key bytes, on LEN and on
CTRL.ORDER: from two states that agree on these it leaves the same X, C, CARRY, ORDER_L, PHASE and ERR. -/
def Obligations.KeySetupIgnoresTheEarlierState : Prop :=
  ∀ (len : Nat) (s s' : State), 1 ≤ len → len ≤ 16 → s.ctrlOrder = s'.ctrlOrder →
    (∀ j : Fin 16, j.val < len → bufferByte s.key j = bufferByte s'.key j) →
    ∃ t t' : State, exec (.keySetup len) s = .next t ∧ exec (.keySetup len) s' = .next t'
      ∧ t.cipher = t'.cipher ∧ t.orderL = t'.orderL ∧ t.phase = t'.phase ∧ t.err = t'.err

/-! ## IV_SETUP (42_iv_schedule.md) -/

/-- R165: IV_SETUP under both length policies, with its errors in their order, its result and all it
leaves unchanged. -/
def Obligations.IvSetupSchedulesOrRejectsTheIv : Prop :=
  ∀ (len : Nat) (s : State),
    let bad := (s.ctrlIvExact8 = false ∧ (len < 1 ∨ 8 < len)) ∨ (s.ctrlIvExact8 = true ∧ len ≠ 8)
    (bad → exec (.ivSetup len) s = .next { s with err := .invalidIvLength })
    ∧ (¬ bad → s.phase ≠ .keyDone → exec (.ivSetup len) s = .next { s with err := .sequenceError })
    ∧ (¬ bad → s.phase = .keyDone →
        let iv0 := s.iv.w0 &&& byteMask len 0
        let iv1 := s.iv.w1 &&& byteMask len 1
        let iv2 := (iv1 &&& 0xFFFF0000) ||| (iv0 >>> 16)
        let iv3 := (iv1 <<< 16) ||| (iv0 &&& 0x0000FFFF)
        let old := s.cipher.c
        let xored : Octet :=
          { w0 := old.w0 ^^^ iv0, w1 := old.w1 ^^^ iv2, w2 := old.w2 ^^^ iv1, w3 := old.w3 ^^^ iv3,
            w4 := old.w4 ^^^ iv0, w5 := old.w5 ^^^ iv2, w6 := old.w6 ^^^ iv1, w7 := old.w7 ^^^ iv3 }
        let next := nextState s.orderL
        exec (.ivSetup len) s = .next
          { s with
            cipher := next (next (next (next { s.cipher with c := xored })))
            phase := .keyed
            err := .noError })

/-- R160: iv0 and iv1 are LE32 of IV bytes 0 to 3 and 4 to 7, where bytes at LEN and beyond count as 0. -/
def Obligations.IvWordsReadOnlyTheFirstBytes : Prop :=
  ∀ (iv : Pair) (len : Nat) (i : Fin 2),
    let byte := fun b : Fin 4 =>
      if 4 * i.val + b.val < len then ivByte iv (Fin.ofNat 8 (4 * i.val + b.val)) else 0
    (ivWords iv len).get i = le32 (byte 0) (byte 1) (byte 2) (byte 3)

/-- R161: iv2 and iv3 pair the high halves and the low halves of iv1 and iv0. R162: the perturbation
changes C alone. -/
def Obligations.IvDerivedWordsPairTheHalves : Prop :=
  ∀ (iv : Pair) (s : Cipher),
    iv2Word iv = iv.w1.extractLsb' 16 16 ++ iv.w0.extractLsb' 16 16
    ∧ iv3Word iv = iv.w1.extractLsb' 0 16 ++ iv.w0.extractLsb' 0 16
    ∧ (∀ i : Fin 8, (ivPerturb iv s).c.get i
        = s.c.get i ^^^ (Quad.mk iv.w0 (iv2Word iv) iv.w1 (iv3Word iv)).get (Fin.ofNat 4 i.val))
    ∧ (ivPerturb iv s).x = s.x ∧ (ivPerturb iv s).carry = s.carry

/-! ## The state transition (43_state_transition.md) -/

/-- R181, R182: limb by limb: the carry into limb 0 is CARRY, the carry into limb `i` is 1 exactly when
the new limb `i-1` is below the old one, and the next CARRY is the carry out of limb 7. -/
def Obligations.CounterLimbsTakeTheCarryBelow : Prop :=
  ∀ (c : Octet) (carry : Bool),
    let new := (ctrUpdate c carry).1
    new.get 0 = c.get 0 + ctrConst.get 0 + (if carry = true then 1 else 0)
    ∧ (∀ i : Fin 8, i ≠ 0 → new.get i
        = c.get i + ctrConst.get i + (if (new.get (i - 1)).toNat < (c.get (i - 1)).toNat then 1 else 0))
    ∧ ((ctrUpdate c carry).2 = true ↔ (new.get 7).toNat < (c.get 7).toNat)

/-- R180: the counter constants, with period 3. -/
def Obligations.CounterConstantsHavePeriodThree : Prop :=
  ctrConst.get 0 = 0x4D34D34D ∧ ctrConst.get 1 = 0xD34D34D3 ∧ ctrConst.get 2 = 0x34D34D34
  ∧ ∀ i : Fin 8, ctrConst.get i = ctrConst.get (Fin.ofNat 8 (i.val % 3))

/-- R183: CTRUPD is one 256-bit addition of A and CARRY, and the new CARRY is its carry out; no limb's sum
reaches 2^33, and it reaches 2^32 exactly when the wrapped limb is below the old one. -/
def Obligations.CounterUpdateIsOne256BitAddition : Prop :=
  (∀ (old : Word) (i : Fin 8) (cin : Bool),
    let sum := old.toNat + (ctrConst.get i).toNat + (if cin = true then 1 else 0)
    sum < 2 ^ 33
    ∧ (2 ^ 32 ≤ sum ↔ (old + ctrConst.get i + (if cin = true then 1 else 0)).toNat < old.toNat))
  ∧ (∀ (c : Octet) (carry : Bool),
    let sum := octetValue c + octetValue ctrConst + (if carry = true then 1 else 0)
    octetValue (ctrUpdate c carry).1 = sum % 2 ^ 256
    ∧ ((ctrUpdate c carry).2 = true ↔ 2 ^ 256 ≤ sum))

/-- R185: G is the exclusive OR of the two halves of the 64-bit square, and no intermediate value of
R184's form wraps. -/
def Obligations.GFunctionXorsTheHalvesOfTheSquare : Prop :=
  ∀ v : Word,
    let sq := v.toNat * v.toNat
    let a := v.toNat % 2 ^ 16
    let b := v.toNat / 2 ^ 16
    gFun v = BitVec.ofNat 32 (sq / 2 ^ 32) ^^^ BitVec.ofNat 32 sq
    ∧ a * a ≤ 0xFFFE0001 ∧ a * b ≤ 0xFFFE0001 ∧ b * b ≤ 0xFFFE0001
    ∧ a * a / 2 ^ 17 + a * b < 2 ^ 32
    ∧ (a * a / 2 ^ 17 + a * b) / 2 ^ 15 + b * b < 2 ^ 32

/-- R187: the update's pattern: even words use both neighbours below rotated by 16, odd words the nearer
rotated by 8 and the farther as it is, indices modulo 8. -/
def Obligations.StateWordUpdateFollowsThePattern : Prop :=
  ∀ (g : Octet) (i : Fin 8),
    (xUpdate g).get i =
      if i.val % 2 = 0 then
        g.get i + rotl32 (g.get (i - 1)) 16 + rotl32 (g.get (i - 2)) 16
      else
        g.get i + rotl32 (g.get (i - 1)) 8 + g.get (i - 2)

/-- R186, R188, R189, R191: the two orders: canonical mixes the updated counter, legacy the old one; both
update the counter and CARRY alike. -/
def Obligations.TransitionOrdersDifferOnlyInTheMix : Prop :=
  ∀ s : Cipher,
    let new := (ctrUpdate s.c s.carry).1
    nextState .canonical s =
      { x := xUpdate (Octet.ofFn fun i => gFun (s.x.get i + new.get i)), c := new,
        carry := (ctrUpdate s.c s.carry).2 }
    ∧ nextState .legacy s =
      { x := xUpdate (Octet.ofFn fun i => gFun (s.x.get i + s.c.get i)), c := new,
        carry := (ctrUpdate s.c s.carry).2 }

/-! ## CRYPT (44_keystream_crypt.md) -/

/-- R210: the halves of keystream word `k`. -/
def Obligations.ExtractorXorsTheHalves : Prop :=
  ∀ (x : Octet) (k : Fin 4),
    let even := x.get (Fin.ofNat 8 (2 * k.val))
    ((extract x).get k).extractLsb' 0 16
      = even.extractLsb' 0 16 ^^^ (x.get (Fin.ofNat 8 (2 * k.val + 5))).extractLsb' 16 16
    ∧ ((extract x).get k).extractLsb' 16 16
      = even.extractLsb' 16 16 ^^^ (x.get (Fin.ofNat 8 (2 * k.val + 3))).extractLsb' 0 16

/-- R211: the keystream block has 16 bytes, and byte `4k + b` is byte `b` of word `k`. -/
def Obligations.KeystreamBytesAreTheWordsInOrder : Prop :=
  ∀ (ks : Quad), (keystreamBytes ks).length = 16
    ∧ ∀ k b : Fin 4, (keystreamBytes ks)[4 * k.val + b.val]?
        = some ((ks.get k).extractLsb' (8 * b.val) 8)

/-- R213 (with R215 and R219): CRYPT in every phase and for every legal LEN, with all it leaves
unchanged. -/
def Obligations.CryptTransformsTheBlockOrIsRefused : Prop :=
  ∀ (len : Nat) (s : State), len ≤ 16 →
    (s.phase ≠ .keyed → s.phase ≠ .streaming →
      exec (.crypt len) s = .next { s with err := .sequenceError })
    ∧ (s.phase = .keyed ∨ s.phase = .streaming → len = 0 →
      exec (.crypt len) s = .next { s with phase := .streaming, err := .noError })
    ∧ (s.phase = .keyed ∨ s.phase = .streaming → 0 < len →
      let new := nextState s.orderL s.cipher
      exec (.crypt len) s = .next
        { s with
          cipher := new
          dout := Quad.ofFn fun k =>
            (s.din.get k ^^^ (extract new.x).get k) &&& byteMask len k.val
          phase := .streaming
          err := .noError })

/-- R214: output byte `j` of a successful CRYPT with LEN > 0 is the input byte XOR keystream byte `j` for
`j < LEN`, and 0 from LEN on. -/
def Obligations.CryptOutputIsMaskedByteByByte : Prop :=
  ∀ (len : Nat) (s : State) (j : Fin 16), 1 ≤ len → len ≤ 16 →
    s.phase = .keyed ∨ s.phase = .streaming →
    ∃ t : State, exec (.crypt len) s = .next t
      ∧ (keystreamBytes (extract t.cipher.x))[j.val]? = some (bufferByte (extract t.cipher.x) j)
      ∧ bufferByte t.dout j =
          if j.val < len then bufferByte s.din j ^^^ bufferByte (extract t.cipher.x) j else 0

/-- R216: only KEY_SETUP, ZEROIZE and the reset input leave phase STREAMING. -/
def Obligations.StreamingIsLeftOnlyByKeySetupZeroizeReset : Prop :=
  ∀ s t : State, step s = .next t → s.phase = .streaming → t.phase ≠ .streaming →
    (∃ len, s.runs (.keySetup len) ∧ t.phase = .keyDone)
    ∨ (s.runs .zeroize ∧ t.phase = .uninit) ∨ (s.takes .reset ∧ t.phase = .uninit)

/-- R217, R218, R221: the `k`-th CRYPT of a sequence with LEN 1 to 16 uses the `k`-th keystream block of
the state it starts from, whatever the lengths of the blocks before it: a tail is never resumed, and each
output depends only on the starting cipher state, the order, its own input and LEN, and its position. -/
def Obligations.EachCryptUsesItsOwnKeystreamBlock : Prop :=
  ∀ (s : State) (chunks : List (Quad × Nat)),
    s.phase = .keyed ∨ s.phase = .streaming →
    (∀ p ∈ chunks, 1 ≤ p.2 ∧ p.2 ≤ 16) →
    (cryptChunks s chunks).length = chunks.length
    ∧ ∀ (k : Nat) (din out : Quad) (len : Nat) (j : Fin 16),
        chunks[k]? = some (din, len) → (cryptChunks s chunks)[k]? = some out →
        bufferByte out j =
          if j.val < len then
            bufferByte din j ^^^ bufferByte (keystreamBlock s.orderL s.cipher k) j
          else 0

/-- R220: a second engine with the same cipher state and order restores the input: CRYPT of the output of
CRYPT gives back every input byte below LEN. -/
def Obligations.CryptTwiceRestoresTheInput : Prop :=
  ∀ (len : Nat) (s s' : State), 1 ≤ len → len ≤ 16 →
    s.phase = .keyed ∨ s.phase = .streaming → s'.phase = .keyed ∨ s'.phase = .streaming →
    s'.cipher = s.cipher → s'.orderL = s.orderL →
    ∃ t t' : State, exec (.crypt len) s = .next t
      ∧ exec (.crypt len) { s' with din := t.dout } = .next t'
      ∧ t'.cipher = t.cipher
      ∧ ∀ j : Fin 16, j.val < len → bufferByte t'.dout j = bufferByte s.din j

/-! ## Errors (60_exceptions.md) -/

/-- R108: a command that ends with an error code has changed nothing but ERR. -/
def Obligations.FailedCommandChangesOnlyErr : Prop :=
  ∀ (i : Instr) (s t : State), exec i s = .next t → t.err ≠ .noError →
    t = { s with err := t.err }

/-- R109, R240 to R242, R244, R246: which code a decoded command ends with: the length errors come before
the phase error, INVALID_KEY_LENGTH is KEY_SETUP's alone and INVALID_IV_LENGTH IV_SETUP's alone. -/
def Obligations.ErrorCodeTellsTheFirstFailedCheck : Prop :=
  ∀ (i : Instr) (s : State), i.wf = true → ∃ t : State, exec i s = .next t
    ∧ (t.err = .invalidKeyLength ↔ ∃ len, i = .keySetup len ∧ (len = 0 ∨ 16 < len))
    ∧ (t.err = .invalidIvLength ↔ ∃ len, i = .ivSetup len
        ∧ (len = 0 ∨ 8 < len ∨ (s.ctrlIvExact8 = true ∧ len ≠ 8)))
    ∧ (t.err = .sequenceError ↔
        (∃ len, i = .ivSetup len ∧ 1 ≤ len ∧ len ≤ 8 ∧ (s.ctrlIvExact8 = true → len = 8)
          ∧ s.phase ≠ .keyDone)
        ∨ (∃ len, i = .crypt len ∧ (s.phase = .uninit ∨ s.phase = .keyDone)))
    ∧ t.err ≠ .illegalCommand

/-! ## Whole-machine rules over the state (10_state.md, 70_reset_and_hazards.md) -/

/-- The phases are entered in their order (R27, R271): KEY_DONE only by KEY_SETUP, KEYED only by IV_SETUP
from KEY_DONE, STREAMING only by CRYPT from KEYED, UNINIT only by ZEROIZE or reset. -/
def Obligations.PhasesAreEnteredInOrder : Prop :=
  ∀ s t : State, step s = .next t → t.phase ≠ s.phase →
    (t.phase = .keyDone → ∃ len, s.runs (.keySetup len))
    ∧ (t.phase = .keyed → s.phase = .keyDone ∧ ∃ len, s.runs (.ivSetup len))
    ∧ (t.phase = .streaming → s.phase = .keyed ∧ ∃ len, s.runs (.crypt len))
    ∧ (t.phase = .uninit → s.runs .zeroize ∨ s.takes .reset)

/-- KEY, IV and DIN change only by a host write to them while BUSY = 0, by ZEROIZE and by reset (R29, R30,
R32); CTRL only by a host write and by reset (R34). -/
def Obligations.InputRegistersChangeOnlyByTheirWriters : Prop :=
  ∀ s t : State, step s = .next t →
    (t.key ≠ s.key → s.runs .zeroize ∨ s.takes .reset
      ∨ (s.busy = false ∧ ∃ (j : Fin 4) (v : Word), s.takes (.write (regOffset (.key j)) .bits32 v)))
    ∧ (t.iv ≠ s.iv → s.runs .zeroize ∨ s.takes .reset
      ∨ (s.busy = false ∧ ∃ (j : Fin 2) (v : Word), s.takes (.write (regOffset (.iv j)) .bits32 v)))
    ∧ (t.din ≠ s.din → s.runs .zeroize ∨ s.takes .reset
      ∨ (s.busy = false ∧ ∃ (j : Fin 4) (v : Word), s.takes (.write (regOffset (.din j)) .bits32 v)))
    ∧ (t.ctrlOrder ≠ s.ctrlOrder ∨ t.ctrlIvExact8 ≠ s.ctrlIvExact8 → s.takes .reset
      ∨ (s.busy = false ∧ ∃ v : Word, s.takes (.write 0x04 .bits32 v)))

/-- X, C and CARRY change only by KEY_SETUP, IV_SETUP, CRYPT with LEN > 0, ZEROIZE and reset; DOUT only by
CRYPT with LEN > 0, ZEROIZE and reset; ORDER_L only by KEY_SETUP, ZEROIZE and reset (the table of 10_state.md
section 4). -/
def Obligations.CipherStateChangesOnlyByItsCommands : Prop :=
  ∀ s t : State, step s = .next t →
    (t.cipher ≠ s.cipher → s.takes .reset ∨ s.runs .zeroize
      ∨ (∃ len, s.runs (.keySetup len)) ∨ (∃ len, s.runs (.ivSetup len))
      ∨ ∃ len, 0 < len ∧ s.runs (.crypt len))
    ∧ (t.dout ≠ s.dout → s.takes .reset ∨ s.runs .zeroize ∨ ∃ len, 0 < len ∧ s.runs (.crypt len))
    ∧ (t.orderL ≠ s.orderL → s.takes .reset ∨ s.runs .zeroize ∨ ∃ len, s.runs (.keySetup len))

/-- The frame of the four commands that are no ZEROIZE: no input register, no CTRL bit, neither PENDING,
BUSY nor BUSYERR, and nothing of the host's changes; NOP, KEY_SETUP and IV_SETUP keep DOUT (R147, R165),
NOP keeps X, C, CARRY and PHASE (R111), and only KEY_SETUP writes ORDER_L (R25). The engine has no memory
(R50). -/
def Obligations.CommandsKeepWhatTheyDoNotWrite : Prop :=
  ∀ (i : Instr) (s t : State), i ≠ .zeroize → exec i s = .next t →
    t.key = s.key ∧ t.iv = s.iv ∧ t.din = s.din ∧ t.ctrlOrder = s.ctrlOrder
    ∧ t.ctrlIvExact8 = s.ctrlIvExact8 ∧ t.pending = s.pending ∧ t.busy = s.busy ∧ t.busyErr = s.busyErr
    ∧ t.inputs = s.inputs ∧ t.reads = s.reads ∧ t.draws = s.draws ∧ t.engineWait = s.engineWait
    ∧ ((∀ len, i ≠ .crypt len) → t.dout = s.dout)
    ∧ ((∀ len, i ≠ .keySetup len) → t.orderL = s.orderL)
    ∧ (i = .nop ∨ i = .crypt 0 → t.cipher = s.cipher)
    ∧ (i = .nop → t.phase = s.phase)

/-- R277: CTRL.ORDER has no effect on a stream in progress: every command but KEY_SETUP does the same
whatever CTRL.ORDER holds. -/
def Obligations.CtrlOrderMattersOnlyToKeySetup : Prop :=
  ∀ (i : Instr) (s t : State) (o : TransOrder), (∀ len, i ≠ .keySetup len) →
    exec i s = .next t → exec i { s with ctrlOrder := o } = .next { t with ctrlOrder := o }

/-- R270: the reset values of all state, at power-on and after the reset input, whatever state the engine
is in. -/
def Obligations.ResetGivesEveryRegisterItsValue : Prop :=
  (∀ s : State, s = State.reset ∨ (∃ s0 : State, s0.takes .reset ∧ step s0 = .next s) →
    s.cipher.x = Octet.ofFn (fun _ => 0) ∧ s.cipher.c = Octet.ofFn (fun _ => 0) ∧ s.cipher.carry = false
    ∧ s.orderL = .canonical ∧ s.pending = 0 ∧ s.phase = .uninit
    ∧ s.key = Quad.ofFn (fun _ => 0) ∧ s.iv = ⟨0, 0⟩ ∧ s.din = Quad.ofFn (fun _ => 0)
    ∧ s.dout = Quad.ofFn (fun _ => 0) ∧ s.ctrlOrder = .canonical ∧ s.ctrlIvExact8 = false
    ∧ s.busy = false ∧ s.busyErr = false ∧ s.err = .noError
    ∧ busReadValue 0x04 .bits32 s = 0 ∧ busReadValue 0x08 .bits32 s = 0
    ∧ busReadValue 0x00 .bits32 s = 0x52414242)
  ∧ (∀ s : State, s.takes .reset → ∃ t : State, step s = .next t)

/-- The invariant holds at reset. -/
def Obligations.UninitIsEmptyAtReset : Prop := State.reset.Inv

/-- Every step keeps the invariant: in phase UNINIT the engine holds nothing of any stream, in X, C, CARRY,
ORDER_L and DOUT. -/
def Obligations.EveryStepKeepsUninitEmpty : Prop :=
  ∀ s t : State, s.Inv → step s = .next t → t.Inv
end

