-- ==== Sys2Proof/Laws/State.lean ====
section
/-! SUPPORT. One lemma per field of State per named update: what the update leaves in the field. -/

namespace Sys2Proof.Machine

variable (s : State)

/-! ### complete -/

@[simp] theorem complete_cipher : (complete s).cipher = s.cipher := rfl
@[simp] theorem complete_orderL : (complete s).orderL = s.orderL := rfl
@[simp] theorem complete_pending : (complete s).pending = s.pending := rfl
@[simp] theorem complete_phase : (complete s).phase = s.phase := rfl
@[simp] theorem complete_busy : (complete s).busy = false := rfl
@[simp] theorem complete_busyErr : (complete s).busyErr = s.busyErr := rfl
@[simp] theorem complete_err : (complete s).err = s.err := rfl
@[simp] theorem complete_ctrlOrder : (complete s).ctrlOrder = s.ctrlOrder := rfl
@[simp] theorem complete_ctrlIvExact8 : (complete s).ctrlIvExact8 = s.ctrlIvExact8 := rfl
@[simp] theorem complete_key : (complete s).key = s.key := rfl
@[simp] theorem complete_iv : (complete s).iv = s.iv := rfl
@[simp] theorem complete_din : (complete s).din = s.din := rfl
@[simp] theorem complete_dout : (complete s).dout = s.dout := rfl
@[simp] theorem complete_inputs : (complete s).inputs = s.inputs := rfl
@[simp] theorem complete_reads : (complete s).reads = s.reads := rfl
@[simp] theorem complete_draws : (complete s).draws = s.draws := rfl
@[simp] theorem complete_engineWait : (complete s).engineWait = s.engineWait := rfl

/-! ### issue -/

@[simp] theorem issue_cipher (v : Word) : (issue v s).cipher = s.cipher := rfl
@[simp] theorem issue_orderL (v : Word) : (issue v s).orderL = s.orderL := rfl
@[simp] theorem issue_pending (v : Word) : (issue v s).pending = v := rfl
@[simp] theorem issue_phase (v : Word) : (issue v s).phase = s.phase := rfl
@[simp] theorem issue_busy (v : Word) : (issue v s).busy = true := rfl
@[simp] theorem issue_busyErr (v : Word) : (issue v s).busyErr = s.busyErr := rfl
@[simp] theorem issue_err (v : Word) : (issue v s).err = s.err := rfl
@[simp] theorem issue_ctrlOrder (v : Word) : (issue v s).ctrlOrder = s.ctrlOrder := rfl
@[simp] theorem issue_ctrlIvExact8 (v : Word) : (issue v s).ctrlIvExact8 = s.ctrlIvExact8 := rfl
@[simp] theorem issue_key (v : Word) : (issue v s).key = s.key := rfl
@[simp] theorem issue_iv (v : Word) : (issue v s).iv = s.iv := rfl
@[simp] theorem issue_din (v : Word) : (issue v s).din = s.din := rfl
@[simp] theorem issue_dout (v : Word) : (issue v s).dout = s.dout := rfl
@[simp] theorem issue_inputs (v : Word) : (issue v s).inputs = s.inputs := rfl
@[simp] theorem issue_reads (v : Word) : (issue v s).reads = s.reads := rfl
@[simp] theorem issue_draws (v : Word) : (issue v s).draws = s.draws + 1 := rfl
@[simp] theorem issue_engineWait (v : Word) : (issue v s).engineWait = Config.cmdLatency s.draws := rfl

/-! ### placeCommand -/

@[simp] theorem placeCommand_cipher (v : Word) : (placeCommand v s).cipher = s.cipher := rfl
@[simp] theorem placeCommand_orderL (v : Word) : (placeCommand v s).orderL = s.orderL := rfl
@[simp] theorem placeCommand_pending (v : Word) : (placeCommand v s).pending = v := rfl
@[simp] theorem placeCommand_phase (v : Word) : (placeCommand v s).phase = s.phase := rfl
@[simp] theorem placeCommand_busy (v : Word) : (placeCommand v s).busy = true := rfl
@[simp] theorem placeCommand_busyErr (v : Word) : (placeCommand v s).busyErr = s.busyErr := rfl
@[simp] theorem placeCommand_err (v : Word) : (placeCommand v s).err = s.err := rfl
@[simp] theorem placeCommand_ctrlOrder (v : Word) : (placeCommand v s).ctrlOrder = s.ctrlOrder := rfl
@[simp] theorem placeCommand_ctrlIvExact8 (v : Word) : (placeCommand v s).ctrlIvExact8 = s.ctrlIvExact8 := rfl
@[simp] theorem placeCommand_key (v : Word) : (placeCommand v s).key = s.key := rfl
@[simp] theorem placeCommand_iv (v : Word) : (placeCommand v s).iv = s.iv := rfl
@[simp] theorem placeCommand_din (v : Word) : (placeCommand v s).din = s.din := rfl
@[simp] theorem placeCommand_dout (v : Word) : (placeCommand v s).dout = s.dout := rfl
@[simp] theorem placeCommand_inputs (v : Word) : (placeCommand v s).inputs = s.inputs := rfl
@[simp] theorem placeCommand_reads (v : Word) : (placeCommand v s).reads = s.reads := rfl
@[simp] theorem placeCommand_draws (v : Word) : (placeCommand v s).draws = s.draws := rfl
@[simp] theorem placeCommand_engineWait (v : Word) : (placeCommand v s).engineWait = 0 := rfl

/-! ### dropWrite -/

@[simp] theorem dropWrite_cipher : (dropWrite s).cipher = s.cipher := rfl
@[simp] theorem dropWrite_orderL : (dropWrite s).orderL = s.orderL := rfl
@[simp] theorem dropWrite_pending : (dropWrite s).pending = s.pending := rfl
@[simp] theorem dropWrite_phase : (dropWrite s).phase = s.phase := rfl
@[simp] theorem dropWrite_busy : (dropWrite s).busy = s.busy := rfl
@[simp] theorem dropWrite_busyErr : (dropWrite s).busyErr = true := rfl
@[simp] theorem dropWrite_err : (dropWrite s).err = s.err := rfl
@[simp] theorem dropWrite_ctrlOrder : (dropWrite s).ctrlOrder = s.ctrlOrder := rfl
@[simp] theorem dropWrite_ctrlIvExact8 : (dropWrite s).ctrlIvExact8 = s.ctrlIvExact8 := rfl
@[simp] theorem dropWrite_key : (dropWrite s).key = s.key := rfl
@[simp] theorem dropWrite_iv : (dropWrite s).iv = s.iv := rfl
@[simp] theorem dropWrite_din : (dropWrite s).din = s.din := rfl
@[simp] theorem dropWrite_dout : (dropWrite s).dout = s.dout := rfl
@[simp] theorem dropWrite_inputs : (dropWrite s).inputs = s.inputs := rfl
@[simp] theorem dropWrite_reads : (dropWrite s).reads = s.reads := rfl
@[simp] theorem dropWrite_draws : (dropWrite s).draws = s.draws := rfl
@[simp] theorem dropWrite_engineWait : (dropWrite s).engineWait = s.engineWait := rfl

/-! ### writeCtrl -/

@[simp] theorem writeCtrl_cipher (v : Word) : (writeCtrl v s).cipher = s.cipher := rfl
@[simp] theorem writeCtrl_orderL (v : Word) : (writeCtrl v s).orderL = s.orderL := rfl
@[simp] theorem writeCtrl_pending (v : Word) : (writeCtrl v s).pending = s.pending := rfl
@[simp] theorem writeCtrl_phase (v : Word) : (writeCtrl v s).phase = s.phase := rfl
@[simp] theorem writeCtrl_busy (v : Word) : (writeCtrl v s).busy = s.busy := rfl
@[simp] theorem writeCtrl_busyErr (v : Word) : (writeCtrl v s).busyErr = s.busyErr := rfl
@[simp] theorem writeCtrl_err (v : Word) : (writeCtrl v s).err = s.err := rfl
@[simp] theorem writeCtrl_ctrlOrder (v : Word) : (writeCtrl v s).ctrlOrder = orderOfBit (v.getLsbD 0) := rfl
@[simp] theorem writeCtrl_ctrlIvExact8 (v : Word) : (writeCtrl v s).ctrlIvExact8 = v.getLsbD 1 := rfl
@[simp] theorem writeCtrl_key (v : Word) : (writeCtrl v s).key = s.key := rfl
@[simp] theorem writeCtrl_iv (v : Word) : (writeCtrl v s).iv = s.iv := rfl
@[simp] theorem writeCtrl_din (v : Word) : (writeCtrl v s).din = s.din := rfl
@[simp] theorem writeCtrl_dout (v : Word) : (writeCtrl v s).dout = s.dout := rfl
@[simp] theorem writeCtrl_inputs (v : Word) : (writeCtrl v s).inputs = s.inputs := rfl
@[simp] theorem writeCtrl_reads (v : Word) : (writeCtrl v s).reads = s.reads := rfl
@[simp] theorem writeCtrl_draws (v : Word) : (writeCtrl v s).draws = s.draws := rfl
@[simp] theorem writeCtrl_engineWait (v : Word) : (writeCtrl v s).engineWait = s.engineWait := rfl

/-! ### writeKey -/

@[simp] theorem writeKey_cipher (j : Fin 4) (v : Word) : (writeKey j v s).cipher = s.cipher := rfl
@[simp] theorem writeKey_orderL (j : Fin 4) (v : Word) : (writeKey j v s).orderL = s.orderL := rfl
@[simp] theorem writeKey_pending (j : Fin 4) (v : Word) : (writeKey j v s).pending = s.pending := rfl
@[simp] theorem writeKey_phase (j : Fin 4) (v : Word) : (writeKey j v s).phase = s.phase := rfl
@[simp] theorem writeKey_busy (j : Fin 4) (v : Word) : (writeKey j v s).busy = s.busy := rfl
@[simp] theorem writeKey_busyErr (j : Fin 4) (v : Word) : (writeKey j v s).busyErr = s.busyErr := rfl
@[simp] theorem writeKey_err (j : Fin 4) (v : Word) : (writeKey j v s).err = s.err := rfl
@[simp] theorem writeKey_ctrlOrder (j : Fin 4) (v : Word) : (writeKey j v s).ctrlOrder = s.ctrlOrder := rfl
@[simp] theorem writeKey_ctrlIvExact8 (j : Fin 4) (v : Word) : (writeKey j v s).ctrlIvExact8 =
  s.ctrlIvExact8 := rfl
@[simp] theorem writeKey_key (j : Fin 4) (v : Word) : (writeKey j v s).key = s.key.set j v := rfl
@[simp] theorem writeKey_iv (j : Fin 4) (v : Word) : (writeKey j v s).iv = s.iv := rfl
@[simp] theorem writeKey_din (j : Fin 4) (v : Word) : (writeKey j v s).din = s.din := rfl
@[simp] theorem writeKey_dout (j : Fin 4) (v : Word) : (writeKey j v s).dout = s.dout := rfl
@[simp] theorem writeKey_inputs (j : Fin 4) (v : Word) : (writeKey j v s).inputs = s.inputs := rfl
@[simp] theorem writeKey_reads (j : Fin 4) (v : Word) : (writeKey j v s).reads = s.reads := rfl
@[simp] theorem writeKey_draws (j : Fin 4) (v : Word) : (writeKey j v s).draws = s.draws := rfl
@[simp] theorem writeKey_engineWait (j : Fin 4) (v : Word) : (writeKey j v s).engineWait = s.engineWait := rfl

/-! ### writeIv -/

@[simp] theorem writeIv_cipher (j : Fin 2) (v : Word) : (writeIv j v s).cipher = s.cipher := rfl
@[simp] theorem writeIv_orderL (j : Fin 2) (v : Word) : (writeIv j v s).orderL = s.orderL := rfl
@[simp] theorem writeIv_pending (j : Fin 2) (v : Word) : (writeIv j v s).pending = s.pending := rfl
@[simp] theorem writeIv_phase (j : Fin 2) (v : Word) : (writeIv j v s).phase = s.phase := rfl
@[simp] theorem writeIv_busy (j : Fin 2) (v : Word) : (writeIv j v s).busy = s.busy := rfl
@[simp] theorem writeIv_busyErr (j : Fin 2) (v : Word) : (writeIv j v s).busyErr = s.busyErr := rfl
@[simp] theorem writeIv_err (j : Fin 2) (v : Word) : (writeIv j v s).err = s.err := rfl
@[simp] theorem writeIv_ctrlOrder (j : Fin 2) (v : Word) : (writeIv j v s).ctrlOrder = s.ctrlOrder := rfl
@[simp] theorem writeIv_ctrlIvExact8 (j : Fin 2) (v : Word) : (writeIv j v s).ctrlIvExact8 =
  s.ctrlIvExact8 := rfl
@[simp] theorem writeIv_key (j : Fin 2) (v : Word) : (writeIv j v s).key = s.key := rfl
@[simp] theorem writeIv_iv (j : Fin 2) (v : Word) : (writeIv j v s).iv = s.iv.set j v := rfl
@[simp] theorem writeIv_din (j : Fin 2) (v : Word) : (writeIv j v s).din = s.din := rfl
@[simp] theorem writeIv_dout (j : Fin 2) (v : Word) : (writeIv j v s).dout = s.dout := rfl
@[simp] theorem writeIv_inputs (j : Fin 2) (v : Word) : (writeIv j v s).inputs = s.inputs := rfl
@[simp] theorem writeIv_reads (j : Fin 2) (v : Word) : (writeIv j v s).reads = s.reads := rfl
@[simp] theorem writeIv_draws (j : Fin 2) (v : Word) : (writeIv j v s).draws = s.draws := rfl
@[simp] theorem writeIv_engineWait (j : Fin 2) (v : Word) : (writeIv j v s).engineWait = s.engineWait := rfl

/-! ### writeDin -/

@[simp] theorem writeDin_cipher (j : Fin 4) (v : Word) : (writeDin j v s).cipher = s.cipher := rfl
@[simp] theorem writeDin_orderL (j : Fin 4) (v : Word) : (writeDin j v s).orderL = s.orderL := rfl
@[simp] theorem writeDin_pending (j : Fin 4) (v : Word) : (writeDin j v s).pending = s.pending := rfl
@[simp] theorem writeDin_phase (j : Fin 4) (v : Word) : (writeDin j v s).phase = s.phase := rfl
@[simp] theorem writeDin_busy (j : Fin 4) (v : Word) : (writeDin j v s).busy = s.busy := rfl
@[simp] theorem writeDin_busyErr (j : Fin 4) (v : Word) : (writeDin j v s).busyErr = s.busyErr := rfl
@[simp] theorem writeDin_err (j : Fin 4) (v : Word) : (writeDin j v s).err = s.err := rfl
@[simp] theorem writeDin_ctrlOrder (j : Fin 4) (v : Word) : (writeDin j v s).ctrlOrder = s.ctrlOrder := rfl
@[simp] theorem writeDin_ctrlIvExact8 (j : Fin 4) (v : Word) : (writeDin j v s).ctrlIvExact8 =
  s.ctrlIvExact8 := rfl
@[simp] theorem writeDin_key (j : Fin 4) (v : Word) : (writeDin j v s).key = s.key := rfl
@[simp] theorem writeDin_iv (j : Fin 4) (v : Word) : (writeDin j v s).iv = s.iv := rfl
@[simp] theorem writeDin_din (j : Fin 4) (v : Word) : (writeDin j v s).din = s.din.set j v := rfl
@[simp] theorem writeDin_dout (j : Fin 4) (v : Word) : (writeDin j v s).dout = s.dout := rfl
@[simp] theorem writeDin_inputs (j : Fin 4) (v : Word) : (writeDin j v s).inputs = s.inputs := rfl
@[simp] theorem writeDin_reads (j : Fin 4) (v : Word) : (writeDin j v s).reads = s.reads := rfl
@[simp] theorem writeDin_draws (j : Fin 4) (v : Word) : (writeDin j v s).draws = s.draws := rfl
@[simp] theorem writeDin_engineWait (j : Fin 4) (v : Word) : (writeDin j v s).engineWait = s.engineWait := rfl

/-! ### drawn -/

@[simp] theorem drawn_cipher : (drawn s).cipher = s.cipher := rfl
@[simp] theorem drawn_orderL : (drawn s).orderL = s.orderL := rfl
@[simp] theorem drawn_pending : (drawn s).pending = s.pending := rfl
@[simp] theorem drawn_phase : (drawn s).phase = s.phase := rfl
@[simp] theorem drawn_busy : (drawn s).busy = s.busy := rfl
@[simp] theorem drawn_busyErr : (drawn s).busyErr = s.busyErr := rfl
@[simp] theorem drawn_err : (drawn s).err = s.err := rfl
@[simp] theorem drawn_ctrlOrder : (drawn s).ctrlOrder = s.ctrlOrder := rfl
@[simp] theorem drawn_ctrlIvExact8 : (drawn s).ctrlIvExact8 = s.ctrlIvExact8 := rfl
@[simp] theorem drawn_key : (drawn s).key = s.key := rfl
@[simp] theorem drawn_iv : (drawn s).iv = s.iv := rfl
@[simp] theorem drawn_din : (drawn s).din = s.din := rfl
@[simp] theorem drawn_dout : (drawn s).dout = s.dout := rfl
@[simp] theorem drawn_inputs : (drawn s).inputs = s.inputs := rfl
@[simp] theorem drawn_reads : (drawn s).reads = s.reads := rfl
@[simp] theorem drawn_draws : (drawn s).draws = s.draws + 1 := rfl
@[simp] theorem drawn_engineWait : (drawn s).engineWait = s.engineWait := rfl

/-! ### received -/

@[simp] theorem received_cipher (v : Word) : (received v s).cipher = s.cipher := rfl
@[simp] theorem received_orderL (v : Word) : (received v s).orderL = s.orderL := rfl
@[simp] theorem received_pending (v : Word) : (received v s).pending = s.pending := rfl
@[simp] theorem received_phase (v : Word) : (received v s).phase = s.phase := rfl
@[simp] theorem received_busy (v : Word) : (received v s).busy = s.busy := rfl
@[simp] theorem received_busyErr (v : Word) : (received v s).busyErr = s.busyErr := rfl
@[simp] theorem received_err (v : Word) : (received v s).err = s.err := rfl
@[simp] theorem received_ctrlOrder (v : Word) : (received v s).ctrlOrder = s.ctrlOrder := rfl
@[simp] theorem received_ctrlIvExact8 (v : Word) : (received v s).ctrlIvExact8 = s.ctrlIvExact8 := rfl
@[simp] theorem received_key (v : Word) : (received v s).key = s.key := rfl
@[simp] theorem received_iv (v : Word) : (received v s).iv = s.iv := rfl
@[simp] theorem received_din (v : Word) : (received v s).din = s.din := rfl
@[simp] theorem received_dout (v : Word) : (received v s).dout = s.dout := rfl
@[simp] theorem received_inputs (v : Word) : (received v s).inputs = s.inputs := rfl
@[simp] theorem received_reads (v : Word) : (received v s).reads = s.reads ++ [v] := rfl
@[simp] theorem received_draws (v : Word) : (received v s).draws = s.draws := rfl
@[simp] theorem received_engineWait (v : Word) : (received v s).engineWait = s.engineWait := rfl

/-! ### countAccess -/

@[simp] theorem countAccess_cipher : (countAccess s).cipher = s.cipher := rfl
@[simp] theorem countAccess_orderL : (countAccess s).orderL = s.orderL := rfl
@[simp] theorem countAccess_pending : (countAccess s).pending = s.pending := rfl
@[simp] theorem countAccess_phase : (countAccess s).phase = s.phase := rfl
@[simp] theorem countAccess_busy : (countAccess s).busy = s.busy := rfl
@[simp] theorem countAccess_busyErr : (countAccess s).busyErr = s.busyErr := rfl
@[simp] theorem countAccess_err : (countAccess s).err = s.err := rfl
@[simp] theorem countAccess_ctrlOrder : (countAccess s).ctrlOrder = s.ctrlOrder := rfl
@[simp] theorem countAccess_ctrlIvExact8 : (countAccess s).ctrlIvExact8 = s.ctrlIvExact8 := rfl
@[simp] theorem countAccess_key : (countAccess s).key = s.key := rfl
@[simp] theorem countAccess_iv : (countAccess s).iv = s.iv := rfl
@[simp] theorem countAccess_din : (countAccess s).din = s.din := rfl
@[simp] theorem countAccess_dout : (countAccess s).dout = s.dout := rfl
@[simp] theorem countAccess_inputs : (countAccess s).inputs = s.inputs := rfl
@[simp] theorem countAccess_reads : (countAccess s).reads = s.reads := rfl
@[simp] theorem countAccess_draws : (countAccess s).draws = s.draws := rfl
@[simp] theorem countAccess_engineWait : (countAccess s).engineWait = s.engineWait - 1 := rfl

/-! ### cleared -/

@[simp] theorem cleared_cipher : (cleared s).cipher = Cipher.zero := rfl
@[simp] theorem cleared_orderL : (cleared s).orderL = .canonical := rfl
@[simp] theorem cleared_pending : (cleared s).pending = 0 := rfl
@[simp] theorem cleared_phase : (cleared s).phase = .uninit := rfl
@[simp] theorem cleared_busy : (cleared s).busy = s.busy := rfl
@[simp] theorem cleared_busyErr : (cleared s).busyErr = false := rfl
@[simp] theorem cleared_err : (cleared s).err = s.err := rfl
@[simp] theorem cleared_ctrlOrder : (cleared s).ctrlOrder = s.ctrlOrder := rfl
@[simp] theorem cleared_ctrlIvExact8 : (cleared s).ctrlIvExact8 = s.ctrlIvExact8 := rfl
@[simp] theorem cleared_key : (cleared s).key = Quad.zero := rfl
@[simp] theorem cleared_iv : (cleared s).iv = Pair.zero := rfl
@[simp] theorem cleared_din : (cleared s).din = Quad.zero := rfl
@[simp] theorem cleared_dout : (cleared s).dout = Quad.zero := rfl
@[simp] theorem cleared_inputs : (cleared s).inputs = s.inputs := rfl
@[simp] theorem cleared_reads : (cleared s).reads = s.reads := rfl
@[simp] theorem cleared_draws : (cleared s).draws = s.draws := rfl
@[simp] theorem cleared_engineWait : (cleared s).engineWait = s.engineWait := rfl

/-! ### resetInput -/

@[simp] theorem resetInput_toEngine : (resetInput s).toEngine = Engine.reset := rfl
@[simp] theorem resetInput_inputs : (resetInput s).inputs = s.inputs := rfl
@[simp] theorem resetInput_reads : (resetInput s).reads = s.reads := rfl
@[simp] theorem resetInput_draws : (resetInput s).draws = s.draws := rfl
@[simp] theorem resetInput_engineWait : (resetInput s).engineWait = 0 := rfl

/-! ### cryptBlock -/

@[simp] theorem cryptBlock_cipher (len : Nat) : (cryptBlock len s).cipher = nextState s.orderL s.cipher := rfl
@[simp] theorem cryptBlock_orderL (len : Nat) : (cryptBlock len s).orderL = s.orderL := rfl
@[simp] theorem cryptBlock_pending (len : Nat) : (cryptBlock len s).pending = s.pending := rfl
@[simp] theorem cryptBlock_phase (len : Nat) : (cryptBlock len s).phase = s.phase := rfl
@[simp] theorem cryptBlock_busy (len : Nat) : (cryptBlock len s).busy = s.busy := rfl
@[simp] theorem cryptBlock_busyErr (len : Nat) : (cryptBlock len s).busyErr = s.busyErr := rfl
@[simp] theorem cryptBlock_err (len : Nat) : (cryptBlock len s).err = s.err := rfl
@[simp] theorem cryptBlock_ctrlOrder (len : Nat) : (cryptBlock len s).ctrlOrder = s.ctrlOrder := rfl
@[simp] theorem cryptBlock_ctrlIvExact8 (len : Nat) : (cryptBlock len s).ctrlIvExact8 = s.ctrlIvExact8 := rfl
@[simp] theorem cryptBlock_key (len : Nat) : (cryptBlock len s).key = s.key := rfl
@[simp] theorem cryptBlock_iv (len : Nat) : (cryptBlock len s).iv = s.iv := rfl
@[simp] theorem cryptBlock_din (len : Nat) : (cryptBlock len s).din = s.din := rfl
@[simp] theorem cryptBlock_dout (len : Nat) : (cryptBlock len s).dout =
  cryptOutput s.din (extract (nextState s.orderL s.cipher).x) len := rfl
@[simp] theorem cryptBlock_inputs (len : Nat) : (cryptBlock len s).inputs = s.inputs := rfl
@[simp] theorem cryptBlock_reads (len : Nat) : (cryptBlock len s).reads = s.reads := rfl
@[simp] theorem cryptBlock_draws (len : Nat) : (cryptBlock len s).draws = s.draws := rfl
@[simp] theorem cryptBlock_engineWait (len : Nat) : (cryptBlock len s).engineWait = s.engineWait := rfl

end Sys2Proof.Machine
end

