-- ==== Sys2Proof/Laws/Words.lean ====
section
/-! SUPPORT. Small lemmas about the register arrays and the bits of STATUS. -/

namespace Sys2Proof

@[simp] theorem Octet.get_ofFn (f : Fin 8 → Word) (i : Fin 8) : (Octet.ofFn f).get i = f i := by
  fin_cases i <;> rfl

@[simp] theorem Quad.get_ofFn (f : Fin 4 → Word) (i : Fin 4) : (Quad.ofFn f).get i = f i := by
  fin_cases i <;> rfl

theorem Octet.ext_get {a b : Octet} (h : ∀ i, a.get i = b.get i) : a = b := by
  cases a; cases b
  simpa [Octet.get] using ⟨h 0, h 1, h 2, h 3, h 4, h 5, h 6, h 7⟩

theorem Quad.ext_get {a b : Quad} (h : ∀ i, a.get i = b.get i) : a = b := by
  cases a; cases b
  simpa [Quad.get] using ⟨h 0, h 1, h 2, h 3⟩

theorem Pair.ext_get {a b : Pair} (h : ∀ i, a.get i = b.get i) : a = b := by
  cases a; cases b
  simpa [Pair.get] using ⟨h 0, h 1⟩

theorem Quad.get_set (q : Quad) (i j : Fin 4) (v : Word) :
    (q.set i v).get j = if j = i then v else q.get j := by
  fin_cases i <;> fin_cases j <;> rfl

theorem Pair.get_set (p : Pair) (i j : Fin 2) (v : Word) :
    (p.set i v).get j = if j = i then v else p.get j := by
  fin_cases i <;> fin_cases j <;> rfl

namespace Machine

/-- BUSY is bit 0 of STATUS (R35). -/
theorem statusWord_bit_zero (e : Engine) : (statusWord e).getLsbD 0 = e.busy := by
  simp only [statusWord, BitVec.getLsbD_setWidth, BitVec.getLsbD_append]
  simp

theorem orderOfBit_bit (o : TransOrder) : orderOfBit o.bit = o := by cases o <;> rfl

theorem bit_orderOfBit (b : Bool) : (orderOfBit b).bit = b := by cases b <;> rfl

/-- The access of a register's own offset. -/
theorem accessReg_bits32 (off : Offset) : accessReg off .bits32 = regAtOffset off := rfl

theorem accessReg_narrow {off : Offset} {width : Width} (h : width ≠ .bits32) :
    accessReg off width = none := by
  cases width <;> first | rfl | exact absurd rfl h

end Machine

end Sys2Proof
end

