-- ==== Sys2Proof/Laws/Ops.lean ====
section
/-! SUPPORT. One lemma per shared operation: everything it can do. -/

namespace Sys2Proof.Machine

variable {s t : State}

theorem raise_eq_next {code : ErrCode} : raise code s = .next t ↔ t = { s with err := code } := by
  simp [raise, eq_comm]

theorem succeed_eq_next : succeed s = .next t ↔ t = { s with err := .noError } := by
  simp [succeed, eq_comm]

theorem finish_eq_next {r : Result} : finish r = .next t ↔ ∃ t0, r = .next t0 ∧ t = complete t0 := by
  cases r <;> simp [finish, eq_comm]

/-- BusWrite has no effect, is dropped, or writes its register. -/
theorem busWrite_cases (off : Offset) (width : Width) (v : Word) (s : State) :
    (accessReg off width = none ∧ busWrite off width v s = s)
    ∨ (∃ r, accessReg off width = some r ∧ s.busy = true ∧ busWrite off width v s = dropWrite s)
    ∨ (∃ r, accessReg off width = some r ∧ s.busy = false ∧ busWrite off width v s = writeReg r v s) := by
  unfold busWrite
  cases accessReg off width with
  | none => exact .inl ⟨rfl, rfl⟩
  | some r =>
    cases hb : s.busy
    · exact .inr (.inr ⟨r, rfl, rfl, by simp⟩)
    · exact .inr (.inl ⟨r, rfl, rfl, by simp⟩)

/-- BusRead adds the value it returns to `reads`, and may take a free value; nothing else. -/
theorem busRead_cases (off : Offset) (width : Width) (s : State) :
    busRead off width s = received (busReadValue off width s) s
    ∨ busRead off width s = drawn (received (busReadValue off width s) s) := by
  unfold busRead
  by_cases h : readDraws off width s = true <;> simp [h]

/-- The poll leaves the loop exactly when BUSY = 0. -/
theorem pollStatus_eq (rest : List Input) (s : State) :
    pollStatus rest s = if s.busy = true then s else { s with inputs := rest } := by
  have h : busReadValue 0x08 .bits32 s = statusWord s.toEngine := rfl
  simp only [pollStatus, h, statusWord_bit_zero]

/-- NOP's one outcome. -/
theorem execNop_next : execNop s = .next t ↔ t = { s with err := .noError } := succeed_eq_next

/-- ZEROIZE's one outcome. -/
theorem execZeroize_next : execZeroize s = .next t ↔ t = { cleared s with err := .noError } :=
  succeed_eq_next

/-- KEY_SETUP's two outcomes. -/
theorem execKeySetup_next {len : Nat} : execKeySetup len s = .next t ↔
    (keyLengthOk len = true ∧ t =
      { s with
        orderL := s.ctrlOrder
        cipher := keySchedule s.ctrlOrder (keyWords s.key len)
        phase := .keyDone
        err := .noError })
    ∨ (keyLengthOk len = false ∧ t = { s with err := .invalidKeyLength }) := by
  unfold execKeySetup
  cases keyLengthOk len <;> simp [raise_eq_next, succeed_eq_next]

/-- IV_SETUP's three outcomes. -/
theorem execIvSetup_next {len : Nat} : execIvSetup len s = .next t ↔
    (ivLengthOk s.ctrlIvExact8 len = true ∧ s.phase = .keyDone ∧ t =
      { s with
        cipher := ivSchedule s.orderL (ivWords s.iv len) s.cipher
        phase := .keyed
        err := .noError })
    ∨ (ivLengthOk s.ctrlIvExact8 len = true ∧ s.phase ≠ .keyDone ∧ t = { s with err := .sequenceError })
    ∨ (ivLengthOk s.ctrlIvExact8 len = false ∧ t = { s with err := .invalidIvLength }) := by
  unfold execIvSetup
  cases ivLengthOk s.ctrlIvExact8 len <;> by_cases hp : s.phase = .keyDone <;>
    simp [raise_eq_next, succeed_eq_next, hp]

/-- CRYPT's four outcomes. -/
theorem execCrypt_next {len : Nat} : execCrypt len s = .next t ↔
    (16 < len ∧ t = { s with err := .illegalCommand })
    ∨ (len = 0 ∧ keystreamPhase s.phase = true ∧ t = { s with phase := .streaming, err := .noError })
    ∨ (1 ≤ len ∧ len ≤ 16 ∧ keystreamPhase s.phase = true ∧
        t = { cryptBlock len s with phase := .streaming, err := .noError })
    ∨ (len ≤ 16 ∧ keystreamPhase s.phase = false ∧ t = { s with err := .sequenceError }) := by
  unfold execCrypt
  by_cases h16 : 16 < len
  · simp [h16, raise_eq_next, show ¬ len ≤ 16 by omega, show len ≠ 0 by omega]
  · by_cases h0 : len = 0
    · cases hp : keystreamPhase s.phase <;> simp [h0, raise_eq_next, succeed_eq_next]
    · cases hp : keystreamPhase s.phase <;>
        simp [h16, h0, raise_eq_next, succeed_eq_next, show 1 ≤ len by omega, show len ≤ 16 by omega]

/-- Every command ends in a next state. -/
theorem exec_answers_next (i : Instr) (s : State) : ∃ t, exec i s = .next t := by
  cases i with
  | nop => exact ⟨_, rfl⟩
  | keySetup len =>
    cases h : keyLengthOk len
    · exact ⟨_, execKeySetup_next.2 (.inr ⟨h, rfl⟩)⟩
    · exact ⟨_, execKeySetup_next.2 (.inl ⟨h, rfl⟩)⟩
  | ivSetup len =>
    cases h : ivLengthOk s.ctrlIvExact8 len
    · exact ⟨_, execIvSetup_next.2 (.inr (.inr ⟨h, rfl⟩))⟩
    · by_cases hp : s.phase = .keyDone
      · exact ⟨_, execIvSetup_next.2 (.inl ⟨h, hp, rfl⟩)⟩
      · exact ⟨_, execIvSetup_next.2 (.inr (.inl ⟨h, hp, rfl⟩))⟩
  | crypt len =>
    by_cases h16 : 16 < len
    · exact ⟨_, execCrypt_next.2 (.inl ⟨h16, rfl⟩)⟩
    · cases hp : keystreamPhase s.phase
      · exact ⟨_, execCrypt_next.2 (.inr (.inr (.inr ⟨by omega, hp, rfl⟩)))⟩
      · by_cases h0 : len = 0
        · exact ⟨_, execCrypt_next.2 (.inr (.inl ⟨h0, hp, rfl⟩))⟩
        · exact ⟨_, execCrypt_next.2 (.inr (.inr (.inl ⟨by omega, by omega, hp, rfl⟩)))⟩
  | zeroize => exact ⟨_, rfl⟩

end Sys2Proof.Machine
end

