-- ==== Sys2Proof/Laws/PerInstr.lean ====
section
/-! SUPPORT. Statements made for each command as syntax, one lemma per constructor. -/

namespace Sys2Proof.Laws.EncodingFields

/-- The command word of a well-formed command holds its OP and its LEN in their fields, and 0 in RES0 and
RES1 (R80 to R83). -/
def Statement (i : Instr) : Prop :=
  i.wf = true →
    opField (encode i) = opcode i ∧ lenField (encode i) = lenOf i
    ∧ res0Field (encode i) = 0 ∧ res1Field (encode i) = 0

/-- The fields of every word that has LEN `len < 32`, OP `op < 16` and nothing else. -/
theorem fields_of_parts : ∀ len < 32, ∀ op < 5,
    opField ((BitVec.ofNat 32 len <<< 8) ||| BitVec.ofNat 32 op) = op
    ∧ lenField ((BitVec.ofNat 32 len <<< 8) ||| BitVec.ofNat 32 op) = len
    ∧ res0Field ((BitVec.ofNat 32 len <<< 8) ||| BitVec.ofNat 32 op) = 0
    ∧ res1Field ((BitVec.ofNat 32 len <<< 8) ||| BitVec.ofNat 32 op) = 0 := by
  decide

theorem nop : Statement .nop := fun _ => fields_of_parts 0 (by decide) 0 (by decide)

theorem keySetup (len : Nat) : Statement (.keySetup len) :=
  fun h => fields_of_parts len (by simpa [Instr.wf] using h) 1 (by decide)

theorem ivSetup (len : Nat) : Statement (.ivSetup len) :=
  fun h => fields_of_parts len (by simpa [Instr.wf] using h) 2 (by decide)

theorem crypt (len : Nat) : Statement (.crypt len) :=
  fun h => fields_of_parts len (by have : len ≤ 16 := by simpa [Instr.wf] using h
                                   omega) 3 (by decide)

theorem zeroize : Statement .zeroize := fun _ => fields_of_parts 0 (by decide) 4 (by decide)

end Sys2Proof.Laws.EncodingFields
end

