-- ==== Sys2Proof/Laws/Step.lean ====
section
/-! SUPPORT. What one step can do, said once, and the induction over runs. -/

namespace Sys2Proof.Machine

variable {s t : State}

/-- The engine's turn needs BUSY. -/
theorem busy_of_engineTurn (h : engineTurn s = true) : s.busy = true := by
  cases hb : s.busy <;> simp_all [engineTurn]

/-- Everything a step can do: run the decoded command, report an ILLEGAL word, take the host's next input,
or wait. -/
theorem step_cases : step s = .next t ↔
    (∃ i t0, s.runs i ∧ exec i s = .next t0 ∧ t = complete t0)
    ∨ (∃ why, engineTurn s = true ∧ decode s.pending = .illegal why
        ∧ t = complete { s with err := .illegalCommand })
    ∨ (engineTurn s = false ∧ s.inputs = [] ∧ t = s)
    ∨ (∃ a rest, engineTurn s = false ∧ s.inputs = a :: rest ∧ t = inputStep a rest s) := by
  unfold step machineStep State.runs
  cases hturn : engineTurn s
  · cases hin : s.inputs <;> simp [eq_comm]
  · cases hdec : decode s.pending <;>
      simp [engineStep, execPending, hdec, finish_eq_next, raise_eq_next]

/-- Everything one input can do: reset the engine, be a dropped write, write a register, or leave the engine
as it is. -/
theorem inputStep_cases (a : Input) (rest : List Input) (s : State) :
    (a = .reset ∧ inputStep a rest s = resetInput { s with inputs := rest })
    ∨ (∃ off v r, a = .write off .bits32 v ∧ regAtOffset off = some r ∧ s.busy = true
        ∧ inputStep a rest s = dropWrite (countAccess { s with inputs := rest }))
    ∨ (∃ off v r, a = .write off .bits32 v ∧ regAtOffset off = some r ∧ s.busy = false
        ∧ inputStep a rest s = writeReg r v (countAccess { s with inputs := rest }))
    ∨ ((inputStep a rest s).toEngine = s.toEngine ∧ (inputStep a rest s).engineWait = s.engineWait - 1
        ∧ ((a = .wait ∧ s.busy = true ∧ (inputStep a rest s).inputs = s.inputs)
          ∨ (inputStep a rest s).inputs = rest)) := by
  cases a with
  | reset => exact .inl ⟨rfl, rfl⟩
  | read off w =>
    refine .inr (.inr (.inr ?_))
    simp only [inputStep]
    rcases busRead_cases off w (countAccess { s with inputs := rest }) with h | h <;> rw [h] <;>
      exact ⟨rfl, rfl, .inr rfl⟩
  | wait =>
    refine .inr (.inr (.inr ?_))
    simp only [inputStep, pollStatus_eq]
    by_cases hb : (countAccess s).busy = true
    · simp only [if_pos hb]
      exact ⟨rfl, rfl, .inl ⟨trivial, hb, rfl⟩⟩
    · simp only [if_neg hb]
      exact ⟨rfl, rfl, .inr trivial⟩
  | write off w v =>
    simp only [inputStep]
    rcases busWrite_cases off w v (countAccess { s with inputs := rest }) with
      ⟨_, h⟩ | ⟨r, hr, hb, h⟩ | ⟨r, hr, hb, h⟩
    · refine .inr (.inr (.inr ?_))
      rw [h]
      exact ⟨rfl, rfl, .inr rfl⟩
    · cases w <;> try cases hr
      exact .inr (.inl ⟨off, v, r, rfl, hr, hb, h⟩)
    · cases w <;> try cases hr
      exact .inr (.inr (.inl ⟨off, v, r, rfl, hr, hb, h⟩))

/-- A property that one step keeps is kept along every run. -/
theorem reaches_induction {P : State → Prop} (hstep : ∀ a b, P a → step a = .next b → P b) :
    ∀ (n : Nat) (a b : State), P a → a.reaches n b → P b
  | 0, _, _, ha, h => h ▸ ha
  | n + 1, _, b, ha, ⟨c, hc, h⟩ => reaches_induction hstep n c b (hstep _ c ha hc) h

theorem reaches_trans : ∀ (n m : Nat) (a b c : State),
    a.reaches n b → b.reaches m c → a.reaches (n + m) c
  | 0, m, _, _, _, h, h' => by simpa [h] using (h ▸ h' : _)
  | n + 1, m, a, b, c, ⟨u, hu, h⟩, h' => by
    have := reaches_trans n m u b c h h'
    rw [Nat.add_right_comm]
    exact ⟨u, hu, this⟩

/-- A run of one step more is a step and the rest of the run, on every machine. -/
theorem run_succ (M : Host.Core) (n : Nat) (s : M.State) :
    M.run (n + 1) s =
      match M.step s with
      | .next t => M.run n t
      | .fault f => .fault f
      | .refused r => .refused r := rfl

/-- `reaches` is the run of the machine as the host runs it. -/
theorem reaches_iff_run : ∀ (n : Nat) (s t : State),
    s.reaches n t ↔ Sys2Proof.core.run n s = .next t
  | 0, s, t => by
    show s = t ↔ Host.Outcome.next s = Host.Outcome.next t
    simp
  | n + 1, s, t => by
    have hrun := run_succ Sys2Proof.core n s
    constructor
    · rintro ⟨u, hu, h⟩
      have hu' : Sys2Proof.core.step s = .next u := hu
      rw [hu'] at hrun
      exact hrun.trans ((reaches_iff_run n u t).1 h)
    · intro h
      cases hs : Sys2Proof.core.step s with
      | next u =>
        rw [hs] at hrun
        exact ⟨u, hs, (reaches_iff_run n u t).2 (hrun.symm.trans h)⟩
      | fault f => rw [hs] at hrun; cases hrun.symm.trans h
      | refused r => rw [hs] at hrun; cases hrun.symm.trans h

end Sys2Proof.Machine
end

