-- ==== Sys2Proof/Laws/Transition.lean ====
section
/-! SUPPORT. Small lemmas about the functions of the cipher state: one limb of the counter as numbers, the
transitions one by one, and the words and bytes of CRYPT's output. -/

namespace Sys2Proof.Machine

/-- One limb's sum and its carry out, as numbers, for a constant below 2^32 - 1. -/
theorem limb_toNat (old a : Word) (cin : Bool) (ha : a.toNat < 2 ^ 32 - 1) :
    (limbSum old a cin).toNat + 2 ^ 32 * (limbCarry old a cin).toNat
      = old.toNat + a.toNat + cin.toNat := by
  have h1 := old.isLt
  have h2 := a.isLt
  unfold limbCarry limbSum carryWord
  have hdec : ∀ p : Prop, [Decidable p] → (decide p).toNat = if p then 1 else 0 := by
    intro p hp
    by_cases h : p <;> simp [h]
  rw [hdec]
  simp only [BitVec.lt_def, BitVec.toNat_add]
  cases cin <;> simp <;> split <;> omega

theorem ctrConst_lt (i : Fin 8) : (ctrConst.get i).toNat < 2 ^ 32 - 1 := by
  revert i
  decide

theorem limbSum_eq (old a : Word) (cin : Bool) : limbSum old a cin = old + a + carryWord cin := rfl

theorem limbCarry_eq (old a : Word) (cin : Bool) :
    limbCarry old a cin = decide ((limbSum old a cin).toNat < old.toNat) := rfl

theorem transitions_zero (o : TransOrder) (s : Cipher) : transitions o 0 s = s := rfl

theorem transitions_succ (o : TransOrder) (n : Nat) (s : Cipher) :
    transitions o (n + 1) s = nextState o (transitions o n s) := rfl

/-- A transition before the others is one more transition. -/
theorem transitions_nextState (o : TransOrder) (n : Nat) (s : Cipher) :
    transitions o n (nextState o s) = transitions o (n + 1) s := by
  induction n with
  | zero => rfl
  | succ n ih => rw [transitions_succ, ih, transitions_succ o (n + 1)]

theorem cryptOutput_get (din ks : Quad) (len : Nat) (k : Fin 4) :
    (cryptOutput din ks len).get k = (din.get k ^^^ ks.get k) &&& byteMask len k.val := by
  fin_cases k <;> rfl

theorem keyWords_get (key : Quad) (len : Nat) (i : Fin 4) :
    (keyWords key len).get i = key.get i &&& byteMask len i.val := by
  fin_cases i <;> rfl

theorem byteOf_xor (v w : Word) (b : Nat) : byteOf (v ^^^ w) b = byteOf v b ^^^ byteOf w b := by
  unfold byteOf
  apply BitVec.eq_of_getLsbD_eq
  intro i hi
  simp [hi]

theorem keystreamPhase_iff (p : Phase) : keystreamPhase p = true ↔ p = .keyed ∨ p = .streaming := by
  cases p <;> simp [keystreamPhase]

end Sys2Proof.Machine
end

