-- ==== Sys2Proof/Tests/Slice0.lean ====
section
/-! SUPPORT. The model's own tests: ill-formed terms refused, words decoded bit by bit, the vectors of
95_test_vectors.md (the section is named at each), and a witness for the hypotheses of each statement. -/

set_option maxRecDepth 20000

namespace Sys2Proof.Tests

open Sys2Proof.Machine

/-! ### Well-formedness: one ill-formed term for each check -/

theorem test_wf_refuses_keySetup_32 : (Instr.keySetup 32).wf = false := by decide
theorem test_wf_refuses_ivSetup_32 : (Instr.ivSetup 32).wf = false := by decide
theorem test_wf_refuses_crypt_17 : (Instr.crypt 17).wf = false := by decide
theorem test_wf_refuses_pseudo_keysetup_0 : (HostLine.keysetup 0).wf = false := by decide
theorem test_wf_refuses_pseudo_keysetup_32 : (HostLine.keysetup 32).wf = false := by decide
theorem test_wf_refuses_pseudo_ivsetup_32 : (HostLine.ivsetup 32).wf = false := by decide
theorem test_wf_refuses_pseudo_crypt_17 : (HostLine.crypt 17).wf = false := by decide

/-! ### Decoding: each command's word, written out from the bit patterns of R85 -/

theorem test_decode_nop : decode 0b00000000000000000000000000000000#32 = .command .nop := by decide
theorem test_decode_keySetup_21 :
    decode 0b00000000000000000001010100000001#32 = .command (.keySetup 21) := by decide
theorem test_decode_ivSetup_8 :
    decode 0b00000000000000000000100000000010#32 = .command (.ivSetup 8) := by decide
theorem test_decode_crypt_13 :
    decode 0b00000000000000000000110100000011#32 = .command (.crypt 13) := by decide
theorem test_decode_zeroize : decode 0b00000000000000000000000000000100#32 = .command .zeroize := by
  decide

/-- The ILLEGAL rows of 95_test_vectors.md section 2.2. -/
theorem test_decode_illegal :
    decode 0x00000100 = .illegal .nopLength ∧ decode 0x00001F03 = .illegal .cryptLength
    ∧ decode 0x00000104 = .illegal .zeroizeLength ∧ decode 0x0000000F = .illegal .unknownOp
    ∧ decode 0x00000011 = .illegal .reservedBits ∧ decode 0x00000081 = .illegal .reservedBits
    ∧ decode 0x00002001 = .illegal .reservedBits ∧ decode 0x80001003 = .illegal .reservedBits
    ∧ decode 0xFFFFFFFF = .illegal .reservedBits := by decide

/-- A table row's bits, read by number. -/
theorem test_decodeTableWord :
    decodeTableWord 32 0x1001 = some (.keySetup 16) ∧ decodeTableWord 32 0x1103 = none
    ∧ decodeTableWord 64 0x100000000 = none := by decide

/-- R90's examples: the words the pseudo-instructions write. -/
theorem test_expand_examples :
    expandLine (.keysetup 16) = [.write 0x0C .bits32 0x00001001, .wait]
    ∧ expandLine (.ivsetup 8) = [.write 0x0C .bits32 0x00000802, .wait]
    ∧ expandLine (.crypt 4) = [.write 0x0C .bits32 0x00000403, .wait]
    ∧ expandLine (.crypt 16) = [.write 0x0C .bits32 0x00001003, .wait] := by decide

/-! ### Words, masks and the units (sections 2.1, 2.6, 3.1 to 3.4) -/

theorem test_codec : le32 0x27 0x17 0xF4 0xD2 = 0xD2F41727
    ∧ leBytes 0xA151104D = [0x4D, 0x10, 0x51, 0xA1] := by decide

theorem test_byteMask :
    byteMask 16 3 = 0xFFFFFFFF ∧ byteMask 1 0 = 0x000000FF ∧ byteMask 1 1 = 0 ∧ byteMask 3 0 = 0x00FFFFFF
    ∧ byteMask 5 1 = 0x000000FF ∧ byteMask 6 1 = 0x0000FFFF ∧ byteMask 8 2 = 0 ∧ byteMask 0 0 = 0 := by
  decide

theorem test_gFun :
    gFun 0x0000FFFF = 0xFFFE0001 ∧ gFun 0x00010001 = 0x00020000 ∧ gFun 0x7FFFFFFF = 0x3FFFFFFE
    ∧ gFun 0xFFFFFFFF = 0xFFFFFFFF ∧ gFun 0x4D34D34D = 0xC0F8D72B ∧ gFun 0xDEADBEEF = 0xE0DC6E33 := by
  decide

/-- Row 5 of section 3.2: limb 0 reaches 2^32 exactly, and its carry goes into limb 1. -/
theorem test_counter_carry_into_limb1 :
    ctrUpdate ⟨0xB2CB2CB3, 0, 0, 0, 0, 0, 0, 0⟩ false
      = (⟨0x00000000, 0xD34D34D4, 0x34D34D34, 0x4D34D34D, 0xD34D34D3, 0x34D34D34, 0x4D34D34D, 0xD34D34D3⟩,
          false) := by decide

/-- Row 3 of section 3.2, its X' too: every limb wraps. -/
theorem test_transition_all_ones :
    nextState .canonical
      { x := Octet.zero
        c := ⟨0xFFFFFFFF, 0xFFFFFFFF, 0xFFFFFFFF, 0xFFFFFFFF, 0xFFFFFFFF, 0xFFFFFFFF, 0xFFFFFFFF, 0xFFFFFFFF⟩
        carry := false }
      = { x := ⟨0x3AEF5B46, 0x2A050594, 0x382E0F1F, 0xB58C6651, 0xBC3D6C93, 0xEF19638D, 0xD20356CD, 0x787A3CCA⟩
          c := ⟨0x4D34D34C, 0xD34D34D3, 0x34D34D34, 0x4D34D34D, 0xD34D34D3, 0x34D34D34, 0x4D34D34D, 0xD34D34D3⟩
          carry := true } := by decide

/-- Section 2.10: a legacy transition from the all-zero state leaves X zero. -/
theorem test_legacy_from_zero : (nextState .legacy Cipher.zero).x = Octet.zero
    ∧ (nextState .legacy Cipher.zero).c = ctrConst := by decide

theorem test_xUpdate_reach :
    xUpdate ⟨0x01020304, 0, 0, 0, 0, 0, 0, 0⟩ = ⟨0x01020304, 0x02030401, 0x03040102, 0, 0, 0, 0, 0⟩ := by
  decide

theorem test_extract :
    extract ⟨0, 0x11111111, 0x22222222, 0x33333333, 0x44444444, 0x55555555, 0x66666666, 0x77777777⟩
      = ⟨0x33335555, 0x77775555, 0x33335555, 0x77775555⟩ := by decide

/-- Section 2.6: the initial state of a five-byte key with garbage above it. -/
theorem test_keyInit_short_key :
    keyInit (keyWords ⟨0x44332211, 0xDDCCBBAA, 0x12345678, 0x9ABCDEF0⟩ 5)
      = { x := ⟨0x44332211, 0, 0x000000AA, 0x22110000, 0, 0x00AA4433, 0, 0⟩
          c := ⟨0, 0x443300AA, 0, 0, 0x22114433, 0, 0x00AA0000, 0x00002211⟩
          carry := false } := by decide

/-- Section 2.8: the initial counter of the key `AC C3 51 DC ..`, which tells R143 from the source's
literals. -/
theorem test_keyInit_published_form :
    (keyInit ⟨0xDC51C3AC, 0x3BFC62F1, 0x2E3D36FE, 0x91281329⟩).c
      = ⟨0x36FE2E3D, 0xDC5162F1, 0x13299128, 0x3BFC36FE, 0xC3ACDC51, 0x2E3D1329, 0x62F13BFC, 0x9128C3AC⟩ := by
  decide

/-! ### Commands (sections 2.4, 2.10, 2.11, 4) -/

/-- The next state a result holds. -/
def nextOf : Result → Option State
  | .next t => some t
  | .fault _ => none
  | .refused _ => none

/-- The state after reset with a command word placed. -/
def placed (w : Nat) : State := State.reset.withFetchWord 32 w

/-- The cipher state after KEY_SETUP of the all-zero key (section 2.4). -/
def afterKey : Cipher where
  x := ⟨0x6E9E1D18, 0xF5A54E5C, 0xF8FD49C6, 0x9B94253F, 0xDCD14A79, 0x1F32FA20, 0xD2055921, 0x53F371D0⟩
  c := ⟨0xE802074F, 0x5206296D, 0x01486DF2, 0x67203CE4, 0x23AACE55, 0x26E87A8F, 0xCC2E04F2, 0xD6A0F672⟩
  carry := true

/-- The cipher state after IV_SETUP with the IV `27 17 F4 D2 1A 56 EB A6` (section 2.4). -/
def afterIv : Cipher where
  x := ⟨0x84571561, 0xFCE4868A, 0xEB01DBFE, 0x74B3E9AD, 0x0CD10679, 0xB77940F2, 0x84D64506, 0x10D0B1C1⟩
  c := ⟨0x6FC95D9F, 0x4222CEE6, 0x7AF070BC, 0x660D78F8, 0x3E93ACBF, 0x5350DD4F, 0x9F98A01D, 0xCDEFB4A2⟩
  carry := true

/-- Key scheduled, the IV in its registers. -/
def keyDoneState : State :=
  { State.reset with cipher := afterKey, phase := .keyDone, iv := ⟨0xD2F41727, 0xA6EB561A⟩ }

/-- Key and IV scheduled. -/
def keyedState : State := { State.reset with cipher := afterIv, phase := .keyed }

/-- A stream under way. -/
def streamingState : State := { State.reset with cipher := afterIv, phase := .streaming }

/-- A NOP clears ERR and keeps PHASE (the example of R111). -/
theorem test_nop : (nextOf (exec .nop { keyedState with err := .sequenceError })).map
    (fun t => (t.err, t.phase)) = some (.noError, .keyed) := by decide

theorem test_keySetup_zero_key : (nextOf (step (placed 0x1001))).map
    (fun t => (t.cipher, t.phase, t.busy)) = some (afterKey, .keyDone, false) := by decide

/-- Section 2.10: the legacy order. -/
theorem test_keySetup_legacy : (nextOf (exec (.keySetup 16) { State.reset with ctrlOrder := .legacy })).map
    (fun t => (t.cipher.x.w0, t.cipher.c.w7, t.orderL)) = some (0x666577EC, 0x85C7C828, .legacy) := by decide

theorem test_ivSetup_section_2_4 : (nextOf (exec (.ivSetup 8) keyDoneState)).map
    (fun t => (t.cipher, t.phase)) = some (afterIv, .keyed) := by decide

/-- Section 2.6: an IV of three bytes. -/
theorem test_ivSetup_short : (nextOf (exec (.ivSetup 3) keyDoneState)).map
    (fun t => (t.cipher.x.w0, t.cipher.c.w7)) = some (0x2D3FE5F6, 0x23D5B4A3) := by decide

theorem test_crypt_block0 : (nextOf (exec (.crypt 16) keyedState)).map
    (fun t => (t.dout, t.phase)) = some (⟨0xA151104D, 0x70B6AF23, 0x05858DBF, 0x445AD8C8⟩, .streaming) := by
  decide

/-- Section 2.11, LEN 5: the bytes from LEN on are 0. -/
theorem test_crypt_masked : (nextOf (exec (.crypt 5)
    { keyedState with din := ⟨0xFFFFFFFF, 0xFFFFFFFF, 0xFFFFFFFF, 0xFFFFFFFF⟩ })).map
    (fun t => t.dout) = some ⟨0x5EAEEFB2, 0x000000DC, 0, 0⟩ := by decide

/-- The example of R112. -/
theorem test_zeroize : (nextOf (exec .zeroize { streamingState with ctrlOrder := .legacy, orderL := .legacy })).map
    (fun t => (t.phase, t.orderL, t.ctrlOrder, t.cipher)) = some (.uninit, .canonical, .legacy, Cipher.zero) := by
  decide

/-- Program P3: `crypt 16` in UNINIT reads STATUS = 0x40; a word with OP 5 reads 0x30. -/
theorem test_status_after_errors :
    (nextOf (step (placed 0x1003))).map (busReadValue 0x08 .bits32) = some 0x00000040
    ∧ (nextOf (step (placed 0x0005))).map (busReadValue 0x08 .bits32) = some 0x00000030 := by decide

/-! ### Witnesses: states and operands that meet the hypotheses of the statements -/

/-- A command `w` in PENDING, `wait` host accesses before its engine step, and inputs to come. -/
def busyState (w : Word) (wait : Nat) (inputs : List Input) : State :=
  { State.reset with pending := w, busy := true, engineWait := wait, inputs := inputs }

/-- No command running, and inputs to come. -/
def idleState (inputs : List Input) : State := { State.reset with inputs := inputs }

theorem runs_of {s : State} {i : Instr} (h : engineTurn s = true) (h' : decode s.pending = .command i) :
    s.runs i := ⟨h, h'⟩

theorem witness_ByteMask : (3 : Nat) < 4 ∧ ¬ 4 * 0 + 3 < 3 ∧ 4 * 0 + 2 < 3 := by decide
theorem witness_Rotation : (1 : Nat) ≤ 1 ∧ (31 : Nat) ≤ 31 ∧ (31 : Nat) < 32 := by decide
theorem witness_EncodedCommandDecodes : (Instr.keySetup 31).wf = true ∧ (Instr.ivSetup 0).wf = true
    ∧ (Instr.crypt 16).wf = true ∧ (Instr.crypt 0).wf = true := by decide
theorem witness_DecodedWord : decode 0x00001F02 = .command (.ivSetup 31) := by decide
theorem witness_Pseudo : (HostLine.keysetup 1).wf = true ∧ (HostLine.keysetup 31).wf = true
    ∧ (HostLine.ivsetup 0).wf = true ∧ (HostLine.ivsetup 31).wf = true ∧ (HostLine.crypt 0).wf = true
    ∧ (HostLine.crypt 16).wf = true := by decide

theorem witness_BusRead : State.reset.busy = false ∧ (busyState 0 0 []).busy = true
    ∧ Width.bits16 ≠ .bits32 ∧ ¬ mappedOffset 0x28 ∧ ¬ mappedOffset 0x50 ∧ ¬ mappedOffset 0x26 := by
  unfold mappedOffset; decide

theorem witness_AccessWithoutRegister : Width.bits8 ≠ .bits32 ∧ (0x01 : Offset).toNat % 4 ≠ 0
    ∧ (0x28 ≤ (0x2C : Offset).toNat ∧ (0x2C : Offset).toNat ≤ 0x2F) ∧ 0x50 ≤ (0x50 : Offset).toNat
    ∧ 0x50 ≤ (0xFF : Offset).toNat := by decide

theorem witness_WriteWhileBusy : (busyState 0 1 []).busy = true ∧ mappedOffset 0x00 ∧ mappedOffset 0x24
    ∧ mappedOffset 0x30 ∧ mappedOffset 0x4C ∧ ¬ mappedOffset 0x28 := by
  unfold mappedOffset; decide

theorem witness_IdleWrite : State.reset.busy = false ∧ ¬ mappedOffset 0x50 := by
  unfold mappedOffset; decide

/-- The three ways BUSYERR is cleared, and one command that runs with it set. -/
theorem witness_BusyErrCleared_write :
    ∃ t, step { idleState [.write 0x08 .bits32 2] with busyErr := true } = .next t ∧ t.busyErr = false :=
  ⟨_, rfl, rfl⟩
theorem witness_BusyErrCleared_zeroize :
    ∃ t, step { busyState 4 0 [] with busyErr := true } = .next t ∧ t.busyErr = false := ⟨_, rfl, rfl⟩
theorem witness_BusyErrCleared_reset :
    ∃ t, step { busyState 0 1 [.reset] with busyErr := true } = .next t ∧ t.busyErr = false :=
  ⟨_, rfl, rfl⟩
theorem witness_BusyErrCleared_bits :
    (2 : Word).getLsbD 1 = true ∧ (1 : Word).getLsbD 1 = false ∧ State.reset.busy = false
    ∧ Instr.nop ≠ .zeroize ∧ ∃ t, exec .nop State.reset = .next t :=
  ⟨by decide, by decide, rfl, by decide, _, rfl⟩

theorem witness_BusyErrSet : ∃ t, step (busyState 0 1 [.write 0x4C .bits32 0]) = .next t
    ∧ (busyState 0 1 [.write 0x4C .bits32 0]).busyErr = false ∧ t.busyErr = true := ⟨_, rfl, rfl, rfl⟩

/-- `s` with every hidden register set to something else. -/
def otherHidden (s : State) : State :=
  { s with cipher := afterKey, pending := 5, key := ⟨1, 2, 3, 4⟩, iv := ⟨5, 6⟩ }

/-- Two states that differ in X, C, PENDING, KEY and IV and meet every hypothesis, with BUSY = 0 and with
BUSY = 1. -/
theorem witness_ReadsReveal : ∀ s ∈ [keyedState, busyState 0x1003 2 []],
    let t := otherHidden s
    s.cipher ≠ t.cipher ∧ s.pending ≠ t.pending ∧ s.key ≠ t.key ∧ s.iv ≠ t.iv
    ∧ s.orderL = t.orderL ∧ s.phase = t.phase ∧ s.busy = t.busy ∧ s.busyErr = t.busyErr ∧ s.err = t.err
    ∧ s.ctrlOrder = t.ctrlOrder ∧ s.ctrlIvExact8 = t.ctrlIvExact8 ∧ s.din = t.din ∧ s.dout = t.dout
    ∧ s.draws = t.draws := by decide

theorem witness_HostAccessWhileBusy :
    ∃ t, (busyState 0 1 [.read 0x40 .bits32]).busy = true
      ∧ engineTurn (busyState 0 1 [.read 0x40 .bits32]) = false
      ∧ ¬ (busyState 0 1 [.read 0x40 .bits32]).takes .reset
      ∧ step (busyState 0 1 [.read 0x40 .bits32]) = .next t := by
  refine ⟨_, rfl, rfl, ?_, rfl⟩
  rintro ⟨_, rest, h⟩
  cases h

theorem witness_EngineStep : (busyState 0x1001 0 [.wait]).runs (.keySetup 16)
    ∧ (busyState 0x1001 3 []).runs (.keySetup 16)
    ∧ ∃ t, exec (.keySetup 16) (busyState 0x1001 0 [.wait]) = .next t :=
  ⟨runs_of (by decide) (by decide), runs_of (by decide) (by decide), exec_answers_next _ _⟩

theorem witness_Placed : decode 0x00000004 = .command .zeroize
    ∧ ∃ t, exec .zeroize (busyState 4 0 []) = .next t := ⟨by decide, _, rfl⟩

/-- One state for each class of R243's words. -/
theorem witness_IllegalWord : engineTurn (busyState 0x80001003 0 []) = true
    ∧ (0x80001003 : Word).extractLsb' 13 19 ≠ 0 ∧ (0x00000011 : Word).extractLsb' 4 4 ≠ 0
    ∧ 5 ≤ ((0x00000005 : Word).extractLsb' 0 4).toNat
    ∧ (((0x00000100 : Word).extractLsb' 0 4).toNat = 0 ∧ ((0x00000100 : Word).extractLsb' 8 5).toNat ≠ 0)
    ∧ (((0x00000104 : Word).extractLsb' 0 4).toNat = 4 ∧ ((0x00000104 : Word).extractLsb' 8 5).toNat ≠ 0)
    ∧ (((0x00001103 : Word).extractLsb' 0 4).toNat = 3
      ∧ 16 < ((0x00001103 : Word).extractLsb' 8 5).toNat) := by decide

theorem witness_HostStep : engineTurn (idleState []) = false ∧ (idleState []).inputs = []
    ∧ engineTurn (busyState 0 1 [.write 0x30 .bits32 7]) = false ∧ engineTurn (busyState 0 1 [.wait]) = false
    ∧ engineTurn (idleState [.read 0x00 .bits8]) = false ∧ engineTurn (idleState [.reset]) = false := by
  decide

theorem witness_EngineStepComes : (busyState 0 2 [.wait, .read 0x08 .bits32]).busy = true
    ∧ Input.reset ∉ (busyState 0 2 [.wait, .read 0x08 .bits32]).inputs := by decide

theorem witness_RunEnds : State.reset.ended := ⟨rfl, rfl⟩

/-- R112's corner case: PENDING too is back at its reset value. -/
theorem test_zeroize_clears_pending : ∃ t, step (busyState 4 0 []) = .next t ∧ t.pending = 0 :=
  ⟨_, rfl, rfl⟩

theorem witness_ZeroizeStep : (busyState 4 0 []).runs .zeroize := runs_of (by decide) (by decide)

theorem witness_KeySetup : ((0 : Nat) < 1 ∧ (16 : Nat) < 17) ∧ (1 : Nat) ≤ 1 ∧ (16 : Nat) ≤ 16 := by decide

/-- Two states that differ in every input of KEY_SETUP that R148 leaves out, and agree on the rest. -/
theorem witness_KeySetupIgnores : (1 : Nat) ≤ 1 ∧ (1 : Nat) ≤ 16
    ∧ ({ streamingState with key := ⟨0xFFFFFF01, 5, 6, 7⟩, orderL := .legacy } : State).ctrlOrder
        = ({ State.reset with key := ⟨0x00000001, 0, 0, 0⟩ } : State).ctrlOrder
    ∧ ∀ j : Fin 16, j.val < 1 →
        bufferByte ⟨0xFFFFFF01, 5, 6, 7⟩ j = bufferByte ⟨0x00000001, 0, 0, 0⟩ j := by decide

theorem witness_IvSetup :
    (State.reset.ctrlIvExact8 = false ∧ (0 : Nat) < 1 ∧ (8 : Nat) < 9)
    ∧ (({ keyDoneState with ctrlIvExact8 := true } : State).ctrlIvExact8 = true ∧ (4 : Nat) ≠ 8)
    ∧ ((keyedState.ctrlIvExact8 = false ∧ ¬ ((8 : Nat) < 1 ∨ (8 : Nat) < 8)) ∧ keyedState.phase ≠ .keyDone)
    ∧ ((keyDoneState.ctrlIvExact8 = false ∧ ¬ ((1 : Nat) < 1 ∨ 8 < (1 : Nat))) ∧ keyDoneState.phase = .keyDone) := by
  decide

theorem witness_CounterLimbs : (7 : Fin 8) ≠ 0 := by decide

theorem witness_Crypt : ((16 : Nat) ≤ 16 ∧ State.reset.phase ≠ .keyed ∧ State.reset.phase ≠ .streaming)
    ∧ (keyedState.phase = .keyed ∧ (0 : Nat) ≤ 16) ∧ (streamingState.phase = .streaming ∧ (0 : Nat) < 1) := by
  decide

theorem witness_CryptOutput : (1 : Nat) ≤ 16 ∧ keyedState.phase = .keyed ∧ ¬ ((15 : Fin 16).val < 1) := by
  decide

/-- The three ways out of STREAMING. -/
theorem witness_Streaming_zeroize : ∃ t, step { streamingState with pending := 4, busy := true } = .next t
    ∧ t.phase ≠ .streaming := ⟨_, rfl, by decide⟩
theorem witness_Streaming_keySetup :
    ∃ t, step { streamingState with pending := 0x1001, busy := true } = .next t ∧ t.phase ≠ .streaming :=
  ⟨_, rfl, by decide⟩
theorem witness_Streaming_reset : ∃ t, step { streamingState with inputs := [.reset] } = .next t
    ∧ t.phase ≠ .streaming := ⟨_, rfl, by decide⟩

theorem witness_EachCrypt : keyedState.phase = .keyed
    ∧ (∀ p ∈ [(Quad.zero, 4), (Quad.zero, 16)], 1 ≤ p.2 ∧ p.2 ≤ 16)
    ∧ [(Quad.zero, 4), (Quad.zero, 16)][1]? = some (Quad.zero, 16)
    ∧ (cryptChunks keyedState [(Quad.zero, 4), (Quad.zero, 16)])[1]?
        = some ⟨0xACC35B03, 0xAEAE67C6, 0x47F42C5B, 0x96C8F279⟩ := by decide

theorem witness_CryptTwice : keyedState.phase = .keyed ∧ streamingState.phase = .streaming
    ∧ streamingState.cipher = keyedState.cipher ∧ streamingState.orderL = keyedState.orderL := by decide

theorem witness_FailedCommand : ∃ t, exec (.keySetup 17) keyedState = .next t ∧ t.err ≠ .noError :=
  ⟨_, rfl, by decide⟩

theorem witness_ErrorCode : (Instr.keySetup 17).wf = true ∧ (Instr.ivSetup 9).wf = true
    ∧ (Instr.crypt 16).wf = true := by decide

/-- Each phase entered from another. -/
theorem witness_Phases_keyDone : ∃ t, step (busyState 0x1001 0 []) = .next t
    ∧ t.phase ≠ (busyState 0x1001 0 []).phase ∧ t.phase = .keyDone := ⟨_, rfl, by decide, by decide⟩
theorem witness_Phases_keyed : ∃ t, step { keyDoneState with pending := 0x802, busy := true } = .next t
    ∧ t.phase ≠ .keyDone ∧ t.phase = .keyed := ⟨_, rfl, by decide, by decide⟩
theorem witness_Phases_streaming : ∃ t, step { keyedState with pending := 0x003, busy := true } = .next t
    ∧ t.phase ≠ .keyed ∧ t.phase = .streaming := ⟨_, rfl, by decide, by decide⟩

/-- KEY, IV, DIN and CTRL each changed by its host write. -/
theorem witness_InputRegisters :
    (∃ t, step (idleState [.write 0x1C .bits32 5]) = .next t ∧ t.key ≠ Quad.zero)
    ∧ (∃ t, step (idleState [.write 0x24 .bits32 5]) = .next t ∧ t.iv ≠ Pair.zero)
    ∧ (∃ t, step (idleState [.write 0x30 .bits32 5]) = .next t ∧ t.din ≠ Quad.zero)
    ∧ (∃ t, step (idleState [.write 0x04 .bits32 1]) = .next t ∧ t.ctrlOrder ≠ .canonical)
    ∧ (∃ t, step (idleState [.write 0x04 .bits32 2]) = .next t ∧ t.ctrlIvExact8 ≠ false) :=
  ⟨⟨_, rfl, by decide⟩, ⟨_, rfl, by decide⟩, ⟨_, rfl, by decide⟩, ⟨_, rfl, by decide⟩, ⟨_, rfl, by decide⟩⟩

/-- X, C, CARRY and DOUT changed by CRYPT, and ORDER_L by KEY_SETUP. -/
theorem witness_CipherState :
    (∃ t, step { keyedState with pending := 0x1003, busy := true } = .next t
      ∧ t.cipher ≠ keyedState.cipher ∧ t.dout ≠ keyedState.dout)
    ∧ (∃ t, step { busyState 0x1001 0 [] with ctrlOrder := .legacy } = .next t
      ∧ t.orderL ≠ .canonical) :=
  ⟨⟨_, rfl, by decide, by decide⟩, ⟨_, rfl, by decide⟩⟩

theorem witness_Frame : Instr.crypt 0 ≠ .zeroize ∧ (∃ t, exec (.crypt 0) keyedState = .next t)
    ∧ (∃ t, exec .nop keyedState = .next t) := ⟨by decide, ⟨_, rfl⟩, ⟨_, rfl⟩⟩

theorem witness_CtrlOrder : (∀ len, Instr.ivSetup 8 ≠ .keySetup len)
    ∧ ∃ t, exec (.ivSetup 8) keyDoneState = .next t := ⟨fun _ h => (by cases h), exec_answers_next _ _⟩

theorem witness_Reset : ({ streamingState with inputs := [.reset] } : State).takes .reset
    ∧ (busyState 0x1001 2 [.reset]).takes .reset := ⟨⟨rfl, _, rfl⟩, ⟨rfl, _, rfl⟩⟩

/-- The invariant with its premise met, and a step from such a state. -/
theorem witness_Inv : (busyState 0x1003 0 []).Inv ∧ (busyState 0x1003 0 []).phase = .uninit
    ∧ ∃ t, step (busyState 0x1003 0 []) = .next t := ⟨fun _ => ⟨rfl, rfl, rfl⟩, rfl, _, rfl⟩

end Sys2Proof.Tests
end

section
/-! The byte mask (R6) byte by byte, and the rotation (R4) bit by bit. -/

namespace Sys2Proof.Machine

/-! ## Bytes of a masked word -/

@[simp] theorem byteOf_zero (b : Nat) : byteOf 0#32 b = 0#8 := BitVec.extractLsb'_zero

theorem byteOf_and (v w : Word) (b : Nat) : byteOf (v &&& w) b = byteOf v b &&& byteOf w b :=
  BitVec.extractLsb'_and

theorem byteOf_or (v w : Word) (b : Nat) : byteOf (v ||| w) b = byteOf v b ||| byteOf w b :=
  BitVec.extractLsb'_or

/-- The byte `0xFF` in place `k` fills byte `k` and no other. -/
theorem byteOf_shifted_ones : ∀ k < 4, ∀ b < 4,
    byteOf (0xFF#32 <<< (8 * k)) b = if k = b then BitVec.allOnes 8 else 0 := by
  decide

theorem byteOf_maskLane (n w : Nat) {k b : Nat} (hk : k < 4) (hb : b < 4) :
    byteOf (maskLane n w k) b = if k = b ∧ 4 * w + b < n then BitVec.allOnes 8 else 0 := by
  unfold maskLane
  by_cases hkb : k = b
  · subst hkb
    split <;> simp [*, byteOf_shifted_ones]
  · split <;> simp [*, byteOf_shifted_ones]

/-- R6: each byte of the mask is all ones or zero. -/
theorem byteOf_byteMask (n w : Nat) {b : Nat} (hb : b < 4) :
    byteOf (byteMask n w) b = if 4 * w + b < n then BitVec.allOnes 8 else 0 := by
  unfold byteMask
  simp only [byteOf_or, byteOf_maskLane, hb, Nat.reduceLT]
  interval_cases b <;> simp

/-- Settles O1: of the mask's four lanes only lane `b` reaches byte `b`. -/
theorem byteMaskKeepsTheFirstBytes : Obligations.ByteMaskKeepsTheFirstBytes := by
  intro v n w b hb
  rw [byteOf_and, byteOf_byteMask n w hb]
  split
  · exact BitVec.and_allOnes
  · exact BitVec.and_zero

/-! ## Rotation -/

/-- R4's formula is the library's rotation. -/
theorem rotl32_eq_rotateLeft (v : Word) {n : Nat} (hn : n < 32) : rotl32 v n = v.rotateLeft n := by
  rw [rotl32, BitVec.rotateLeft_def, Nat.mod_eq_of_lt hn]

theorem getLsbD_rotl32 (v : Word) {n i : Nat} (hn : n < 32) (hi : i < 32) :
    (rotl32 v n).getLsbD i = v.getLsbD ((i + (32 - n)) % 32) := by
  rw [rotl32_eq_rotateLeft v hn, BitVec.getLsbD_rotateLeft, Nat.mod_eq_of_lt hn]
  by_cases hlow : i < n
  · have hsrc : (i + (32 - n)) % 32 = 32 - n + i := by omega
    simp [hlow, hsrc]
  · have hsrc : (i + (32 - n)) % 32 = i - n := by omega
    simp [hlow, hi, hsrc]

/-- Settles O3: bits below `n` come around from the top, the others move up from `i - n`. -/
theorem rotationMovesEveryBit : Obligations.RotationMovesEveryBit :=
  fun v _ _ _ hn hi => ⟨rfl, getLsbD_rotl32 v (by omega) hi⟩

end Sys2Proof.Machine
end

section
/-! The word codec (R53, R54) byte by byte, and the accesses that reach no register (R57). -/

namespace Sys2Proof.Machine

/-! ## The word codec -/

/-- A word is its four bytes. -/
theorem eq_of_byteOf_eq {v w : Word} (h : ∀ k < 4, byteOf v k = byteOf w k) : v = w := by
  apply BitVec.eq_of_getLsbD_eq
  intro i hi
  have hbit := congrArg (·.getLsbD (i % 8)) (h (i / 8) (by omega))
  simpa [byteOf, Nat.mod_lt, Nat.div_add_mod] using hbit

/-- A byte moved up to place `k` fills byte `k` and no other. -/
theorem byteOf_setWidth_shiftLeft (b : Byte) (k j : Nat) (hj : j < 4) :
    byteOf (b.setWidth 32 <<< (8 * k)) j = if k = j then b else 0 := by
  apply BitVec.eq_of_getLsbD_eq
  intro i hi
  have hword : 8 * j + i < 32 := by omega
  rcases lt_trichotomy k j with hlt | rfl | hgt
  · have hge : 8 ≤ 8 * j + i - 8 * k := by omega
    simp [byteOf, hi, hword, hlt.ne, BitVec.getLsbD_of_ge b _ hge]
  · simp [byteOf, hi, hword]
  · have hbelow : 8 * j + i < 8 * k := by omega
    simp [byteOf, hi, hgt.ne', hbelow]

/-- R53: byte `k` of the decoded word is the `k`-th byte it was made of. -/
theorem byteOf_le32 (b0 b1 b2 b3 : Byte) {k : Nat} (hk : k < 4) :
    byteOf (le32 b0 b1 b2 b3) k = [b0, b1, b2, b3][k] := by
  have h0 := byteOf_setWidth_shiftLeft b0 0 k hk
  have h1 := byteOf_setWidth_shiftLeft b1 1 k hk
  have h2 := byteOf_setWidth_shiftLeft b2 2 k hk
  have h3 := byteOf_setWidth_shiftLeft b3 3 k hk
  simp only [Nat.reduceMul, BitVec.shiftLeft_zero] at h0 h1 h2 h3
  rw [le32, byteOf_or, byteOf_or, byteOf_or, h0, h1, h2, h3]
  interval_cases k <;> simp

theorem leBytes_le32 (b0 b1 b2 b3 : Byte) : leBytes (le32 b0 b1 b2 b3) = [b0, b1, b2, b3] := by
  simp [leBytes, byteOf_le32]

/-- R54: decoding a word's own bytes gives the word back. -/
theorem le32_byteOf (w : Word) : le32 (byteOf w 0) (byteOf w 1) (byteOf w 2) (byteOf w 3) = w := by
  apply eq_of_byteOf_eq
  intro k hk
  rw [byteOf_le32 _ _ _ _ hk]
  interval_cases k <;> rfl

/-- Settles O2: the two formulas are the definitions, and each direction undoes the other because byte `k`
of the decoded word is the `k`-th byte. -/
theorem wordCodecIsLittleEndianAndInverse : Obligations.WordCodecIsLittleEndianAndInverse :=
  fun w b0 b1 b2 b3 => ⟨rfl, rfl, le32_byteOf w, leBytes_le32 b0 b1 b2 b3⟩

/-! ## Accesses that reach no register -/

/-- R51: a 32-bit access has no register exactly at the offsets that are not mapped. -/
theorem regAtOffset_eq_none_iff (off : Offset) : regAtOffset off = none ↔ ¬ mappedOffset off := by
  revert off
  unfold mappedOffset
  decide

/-- R57: only a 32-bit access at a mapped offset has a register. -/
theorem accessReg_eq_none_iff (off : Offset) (width : Width) :
    accessReg off width = none ↔ width ≠ .bits32 ∨ ¬ mappedOffset off := by
  cases width with
  | bits8 => simp [accessReg_narrow]
  | bits16 => simp [accessReg_narrow]
  | bits32 => simp [accessReg_bits32, regAtOffset_eq_none_iff]

/-- R51, R57: an unaligned or a reserved offset is not mapped. -/
theorem not_mappedOffset {off : Offset}
    (h : off.toNat % 4 ≠ 0 ∨ (0x28 ≤ off.toNat ∧ off.toNat ≤ 0x2F) ∨ 0x50 ≤ off.toNat) :
    ¬ mappedOffset off := by
  unfold mappedOffset
  omega

section
variable {off : Offset} {width : Width} (s : State)

theorem busWrite_of_accessReg_none (v : Word) (h : accessReg off width = none) :
    busWrite off width v s = s := by
  rw [busWrite, h]

theorem busReadValue_of_accessReg_none (h : accessReg off width = none) :
    busReadValue off width s = 0 := by
  rw [busReadValue, h]

end

/-- R100: no read changes the engine, whatever it returns. -/
theorem busRead_toEngine (off : Offset) (width : Width) (s : State) :
    (busRead off width s).toEngine = s.toEngine := by
  rcases busRead_cases off width s with h | h <;> rw [h] <;> rfl

/-- Settles O13: none of R57's accesses has a register. -/
theorem accessWithoutRegisterHasNoEffect : Obligations.AccessWithoutRegisterHasNoEffect := by
  intro off width v s h
  have hnone : accessReg off width = none :=
    (accessReg_eq_none_iff off width).2 (h.imp_right not_mappedOffset)
  exact ⟨busWrite_of_accessReg_none s v hnone, busReadValue_of_accessReg_none s hnone,
    busRead_toEngine off width s⟩

end Sys2Proof.Machine
end

section
/-! DECODE over the fields of the word (R86), and the opcode map's match and mask (R85). -/

namespace Sys2Proof.Machine

/-! ## The fields of a word -/

/-- R82: RES1 and RES0 are zero. -/
def ReservedZero (w : Word) : Prop := w.extractLsb' 13 19 = 0 ∧ w.extractLsb' 4 4 = 0

theorem reservedZero_iff (w : Word) : ReservedZero w ↔ res1Field w = 0 ∧ res0Field w = 0 := by
  simp only [ReservedZero, res1Field, res0Field, BitVec.toNat_eq, BitVec.ofNat_eq_ofNat,
    BitVec.toNat_ofNat, Nat.zero_mod]

theorem lenField_lt (w : Word) : lenField w < 32 := (w.extractLsb' 8 5).isLt

/-- R80: the four fields make up the whole word. -/
theorem toNat_eq_fields (w : Word) :
    w.toNat = opField w + 16 * res0Field w + 256 * lenField w + 8192 * res1Field w := by
  simp only [opField, res0Field, lenField, res1Field, BitVec.extractLsb'_toNat,
    Nat.shiftRight_eq_div_pow]
  omega

theorem eq_iff_fields_eq (v w : Word) :
    v = w ↔ (res1Field v = res1Field w ∧ res0Field v = res0Field w)
      ∧ opField v = opField w ∧ lenField v = lenField w := by
  constructor
  · rintro rfl
    exact ⟨⟨rfl, rfl⟩, rfl, rfl⟩
  · rintro ⟨⟨hres1, hres0⟩, hop, hlen⟩
    apply BitVec.eq_of_toNat_eq
    rw [toNat_eq_fields v, toNat_eq_fields w, hres1, hres0, hop, hlen]

/-! ## DECODE -/

/-- R86: what a word's fields are when DECODE's answer is `d`. -/
def DecodesTo (w : Word) : Decoded → Prop
  | .command i => ReservedZero w ∧ opField w = opcode i ∧ lenField w = lenOf i ∧ i.wf = true
  | .illegal .reservedBits => ¬ ReservedZero w
  | .illegal .nopLength => ReservedZero w ∧ opField w = 0 ∧ lenField w ≠ 0
  | .illegal .cryptLength => ReservedZero w ∧ opField w = 3 ∧ 16 < lenField w
  | .illegal .zeroizeLength => ReservedZero w ∧ opField w = 4 ∧ lenField w ≠ 0
  | .illegal .unknownOp => ReservedZero w ∧ 5 ≤ opField w

theorem decodesTo_decode (w : Word) : DecodesTo w (decode w) := by
  unfold decode
  split
  next hres =>
    rw [DecodesTo, reservedZero_iff]
    omega
  next hres =>
    have hzero : ReservedZero w := (reservedZero_iff w).2 (by omega)
    have hlen := lenField_lt w
    split
    next hop => split <;> simp_all [DecodesTo, opcode, lenOf, Instr.wf]
    next hop => simp [DecodesTo, opcode, lenOf, Instr.wf, hzero, hop, hlen]
    next hop => simp [DecodesTo, opcode, lenOf, Instr.wf, hzero, hop, hlen]
    next hop => split <;> simp_all [DecodesTo, opcode, lenOf, Instr.wf]
    next hop => split <;> simp_all [DecodesTo, opcode, lenOf, Instr.wf]
    next hop0 hop1 hop2 hop3 hop4 =>
      refine ⟨hzero, ?_⟩
      simp only [imp_false] at hop0 hop1 hop2 hop3 hop4
      omega

theorem decode_of_decodesTo_command (w : Word) (i : Instr) (h : DecodesTo w (.command i)) :
    decode w = .command i := by
  obtain ⟨hzero, hop, hlen, hwf⟩ := h
  obtain ⟨hres1, hres0⟩ := (reservedZero_iff w).1 hzero
  cases i <;> simp_all [decode, opcode, lenOf, Instr.wf]

theorem decode_of_decodesTo_illegal (w : Word) (why : Illegal) (h : DecodesTo w (.illegal why)) :
    decode w = .illegal why := by
  cases why with
  | unknownOp =>
    obtain ⟨hzero, hop⟩ := h
    obtain ⟨hres1, hres0⟩ := (reservedZero_iff w).1 hzero
    rw [decode, if_neg (by omega)]
    split <;> simp_all
  | _ => simp_all [decode, DecodesTo, reservedZero_iff]

/-- R86: the fields of a word determine DECODE's answer, and the answer determines which case holds. -/
theorem decode_eq_iff (w : Word) (d : Decoded) : decode w = d ↔ DecodesTo w d := by
  constructor
  · rintro rfl
    exact decodesTo_decode w
  · cases d with
    | command i => exact decode_of_decodesTo_command w i
    | illegal why => exact decode_of_decodesTo_illegal w why

/-- R86, R243: the words that are no command, whatever the reason. -/
theorem decode_illegal_iff (w : Word) :
    (∃ why, decode w = .illegal why) ↔
      ¬ ReservedZero w ∨ ((opField w = 0 ∨ opField w = 4) ∧ lenField w ≠ 0)
      ∨ (opField w = 3 ∧ 16 < lenField w) ∨ 5 ≤ opField w := by
  simp only [decode_eq_iff]
  constructor
  · rintro ⟨why, h⟩
    cases why <;> simp_all [DecodesTo]
  · intro h
    by_cases hzero : ReservedZero w
    · rcases h with h | ⟨hop | hop, hlen⟩ | ⟨hop, hlen⟩ | hop
      · exact absurd hzero h
      · exact ⟨.nopLength, hzero, hop, hlen⟩
      · exact ⟨.zeroizeLength, hzero, hop, hlen⟩
      · exact ⟨.cryptLength, hzero, hop, hlen⟩
      · exact ⟨.unknownOp, hzero, hop⟩
    · exact ⟨.reservedBits, hzero⟩

section
variable (w : Word)

theorem decode_eq_nop_iff :
    decode w = .command .nop ↔ ReservedZero w ∧ opField w = 0 ∧ lenField w = 0 := by
  simp [decode_eq_iff, DecodesTo, opcode, lenOf, Instr.wf]

theorem decode_eq_zeroize_iff :
    decode w = .command .zeroize ↔ ReservedZero w ∧ opField w = 4 ∧ lenField w = 0 := by
  simp [decode_eq_iff, DecodesTo, opcode, lenOf, Instr.wf]

/-- Every value of the LEN field is well-formed for KEY_SETUP (R87). -/
theorem decode_eq_keySetup_iff (n : Nat) :
    decode w = .command (.keySetup n) ↔ ReservedZero w ∧ opField w = 1 ∧ lenField w = n := by
  simpa [decode_eq_iff, DecodesTo, opcode, lenOf, Instr.wf] using fun _ _ h => h ▸ lenField_lt w

theorem decode_eq_ivSetup_iff (n : Nat) :
    decode w = .command (.ivSetup n) ↔ ReservedZero w ∧ opField w = 2 ∧ lenField w = n := by
  simpa [decode_eq_iff, DecodesTo, opcode, lenOf, Instr.wf] using fun _ _ h => h ▸ lenField_lt w

theorem decode_eq_crypt_iff (n : Nat) :
    decode w = .command (.crypt n) ↔
      ReservedZero w ∧ opField w = 3 ∧ lenField w = n ∧ n ≤ 16 := by
  simp [decode_eq_iff, DecodesTo, opcode, lenOf, Instr.wf]

end

/-- Settles O6: the conditions of R86 are those of `DecodesTo`, one command at a time. -/
theorem decodeSplitsEveryWord : Obligations.DecodeSplitsEveryWord :=
  fun w => ⟨decode_eq_nop_iff w, decode_eq_keySetup_iff w, decode_eq_ivSetup_iff w,
    decode_eq_crypt_iff w, decode_eq_zeroize_iff w, decode_illegal_iff w⟩

/-! ## The opcode map -/

/-- R85: the mask of a row with a LEN field leaves out LEN and nothing else. -/
theorem fields_and_lenMask (w : Word) :
    (res1Field (w &&& 0xFFFFE0FF) = res1Field w ∧ res0Field (w &&& 0xFFFFE0FF) = res0Field w)
    ∧ opField (w &&& 0xFFFFE0FF) = opField w ∧ lenField (w &&& 0xFFFFE0FF) = 0 := by
  have hres1 : (0xFFFFE0FF : Word).extractLsb' 13 19 = BitVec.allOnes 19 := rfl
  have hres0 : (0xFFFFE0FF : Word).extractLsb' 4 4 = BitVec.allOnes 4 := rfl
  have hop : (0xFFFFE0FF : Word).extractLsb' 0 4 = BitVec.allOnes 4 := rfl
  have hlen : (0xFFFFE0FF : Word).extractLsb' 8 5 = 0#5 := rfl
  simp only [opField, lenField, res0Field, res1Field, BitVec.extractLsb'_and, hres1, hres0, hop, hlen,
    BitVec.and_allOnes, BitVec.and_zero, BitVec.toNat_zero, and_self]

/-- The word that holds OP `op` and nothing else. -/
theorem fields_of_op {op : Nat} (hop : op < 5) :
    (res1Field (BitVec.ofNat 32 op) = 0 ∧ res0Field (BitVec.ofNat 32 op) = 0)
    ∧ opField (BitVec.ofNat 32 op) = op ∧ lenField (BitVec.ofNat 32 op) = 0 := by
  obtain ⟨hop', hlen, hres0, hres1⟩ := Laws.EncodingFields.fields_of_parts 0 (by decide) op hop
  simp_all

/-- R85: the row of a command without LEN names one word. -/
theorem eq_op_iff (w : Word) {op : Nat} (hop : op < 5) :
    w = BitVec.ofNat 32 op ↔ ReservedZero w ∧ opField w = op ∧ lenField w = 0 := by
  obtain ⟨⟨hres1, hres0⟩, hop', hlen⟩ := fields_of_op hop
  rw [eq_iff_fields_eq, hres1, hres0, hop', hlen, reservedZero_iff]

/-- R85: the row of a command with LEN fixes the reserved bits and OP. -/
theorem and_lenMask_eq_op_iff (w : Word) {op : Nat} (hop : op < 5) :
    w &&& 0xFFFFE0FF = BitVec.ofNat 32 op ↔ ReservedZero w ∧ opField w = op := by
  obtain ⟨⟨hres1, hres0⟩, hop', hlen⟩ := fields_and_lenMask w
  rw [eq_op_iff _ hop, reservedZero_iff, reservedZero_iff, hres1, hres0, hop', hlen]
  simp

/-- R85: the mask of a row without LEN keeps the whole word. -/
theorem and_wordMask (w : Word) : w &&& 0xFFFFFFFF = w := BitVec.and_allOnes

theorem keySetupRow_iff (w : Word) :
    ReservedZero w ∧ opField w = 1 ↔ decode w = .command (.keySetup (lenField w)) := by
  simp [decode_eq_keySetup_iff]

theorem ivSetupRow_iff (w : Word) :
    ReservedZero w ∧ opField w = 2 ↔ decode w = .command (.ivSetup (lenField w)) := by
  simp [decode_eq_ivSetup_iff]

/-- R85, R86: the CRYPT row also holds the words with LEN over 16, which are ILLEGAL. -/
theorem cryptRow_iff (w : Word) :
    ReservedZero w ∧ opField w = 3 ↔
      decode w = .command (.crypt (lenField w))
      ∨ (decode w = .illegal .cryptLength ∧ 16 < lenField w) := by
  rw [decode_eq_crypt_iff, decode_eq_iff, DecodesTo]
  rcases Nat.lt_or_ge 16 (lenField w) with hlen | hlen
  · simp [hlen]
  · simp [hlen]

/-- Settles O7: a row's match and mask fix the same fields as DECODE does for its command. -/
theorem opcodeRowsAgreeWithDecode : Obligations.OpcodeRowsAgreeWithDecode := by
  intro w
  refine ⟨?_, ?_, ?_, ?_, ?_, rfl⟩
  · rw [and_wordMask, decode_eq_nop_iff]
    exact eq_op_iff w (by decide)
  · exact (and_lenMask_eq_op_iff w (by decide)).trans (keySetupRow_iff w)
  · exact (and_lenMask_eq_op_iff w (by decide)).trans (ivSetupRow_iff w)
  · exact (and_lenMask_eq_op_iff w (by decide)).trans (cryptRow_iff w)
  · rw [and_wordMask, decode_eq_zeroize_iff]
    exact eq_op_iff w (by decide)

end Sys2Proof.Machine
end

section
/-! The register window's offsets (R51) and BusWrite, register by register (R101, R102, R104). -/

namespace Sys2Proof.Machine

/-! ## Registers and their offsets -/

theorem regAtOffset_regOffset (r : Reg) : regAtOffset (regOffset r) = some r := by
  cases r with
  | id | ctrl | status | cmd => rfl
  | key j | din j | dout j => revert j; decide
  | iv j => revert j; decide

/-- R51: an offset that holds a register is that register's own. -/
theorem regOffset_of_regAtOffset {off : Offset} {r : Reg} (h : regAtOffset off = some r) :
    regOffset r = off := by
  have hall : ∀ off : Offset, (regAtOffset off).all (regOffset · == off) = true := by decide
  simpa [h] using hall off

/-! ## BusWrite -/

section
variable {s : State} (off : Offset) (width : Width) (v : Word)

/-- R102: while BUSY = 1 an access that has a register is dropped. -/
theorem busWrite_of_busy (hbusy : s.busy = true) (hreg : accessReg off width ≠ none) :
    busWrite off width v s = dropWrite s := by
  rcases busWrite_cases off width v s with ⟨hnone, _⟩ | ⟨_, _, _, h⟩ | ⟨_, _, hidle, _⟩
  · exact absurd hnone hreg
  · exact h
  · simp [hbusy] at hidle

/-- R101: while BUSY = 0 a 32-bit write at a register's offset writes that register. -/
theorem busWrite_regOffset_of_idle (hidle : s.busy = false) (r : Reg) :
    busWrite (regOffset r) .bits32 v s = writeReg r v s := by
  have hreg : accessReg (regOffset r) .bits32 = some r := regAtOffset_regOffset r
  simp [busWrite, hreg, hidle]

end

/-! R115: BUSYERR is write-one-to-clear by STATUS bit 1. -/

section
variable {v : Word} (s : State)

theorem writeStatus_of_bit_set (hbit : v.getLsbD 1 = true) :
    writeStatus v s = { s with busyErr := false } := if_pos hbit

theorem writeStatus_of_bit_clear (hbit : v.getLsbD 1 = false) : writeStatus v s = s :=
  if_neg (Bool.eq_false_iff.1 hbit)

end

/-- R101: both cases of the bit as one formula. -/
theorem writeStatus_eq (v : Word) (s : State) :
    writeStatus v s = { s with busyErr := s.busyErr && !v.getLsbD 1 } := by
  cases hbit : v.getLsbD 1
  · rw [writeStatus_of_bit_clear s hbit, Bool.not_false, Bool.and_true]
  · rw [writeStatus_of_bit_set s hbit, Bool.not_true, Bool.and_false]

/-- Settles O14: a 32-bit access at a mapped offset has a register, so it is dropped; the others have
none. -/
theorem writeWhileBusyOnlySetsBusyErr : Obligations.WriteWhileBusyOnlySetsBusyErr := by
  intro off width v s hbusy
  constructor
  · rintro rfl hmapped
    exact busWrite_of_busy off .bits32 v hbusy (by simp [accessReg_eq_none_iff, hmapped])
  · intro h
    exact busWrite_of_accessReg_none s v ((accessReg_eq_none_iff off width).2 h)

/-- Settles O15: an idle write at a register's offset is `writeReg`, whose arms are the statement's
clauses. -/
theorem idleWriteReachesItsRegister : Obligations.IdleWriteReachesItsRegister := by
  intro v s hidle
  have hreg := busWrite_regOffset_of_idle v hidle
  exact ⟨hreg .id, hreg .ctrl, (hreg .status).trans (writeStatus_eq v s),
    congrArg State.toEngine (hreg .cmd), fun j => hreg (.key j), fun j => hreg (.iv j),
    fun j => hreg (.din j), fun j => hreg (.dout j),
    fun off hoff => busWrite_of_accessReg_none s v ((accessReg_eq_none_iff off .bits32).2 (.inr hoff))⟩

end Sys2Proof.Machine
end

section
/-! NOP and ZEROIZE (R111, R112), commands that fail (R108), and what clears BUSYERR (R115). -/

namespace Sys2Proof.Machine

/-! ## Results of commands -/

/-- Settles O27: NOP is success alone. -/
theorem nopOnlyClearsErr : Obligations.NopOnlyClearsErr :=
  fun _ => execNop_next.2 rfl

/-- Settles O28: `cleared` followed by success. -/
theorem zeroizeClearsAllButCtrl : Obligations.ZeroizeClearsAllButCtrl :=
  fun _ => execZeroize_next.2 rfl

/-- Settles O50: each command's outcomes are its success, where ERR is 0, and its failed checks, which
change ERR alone. -/
theorem failedCommandChangesOnlyErr : Obligations.FailedCommandChangesOnlyErr := by
  intro i s t hexec herr
  cases i with
  | nop =>
    obtain rfl := execNop_next.1 hexec
    exact absurd rfl herr
  | keySetup len =>
    obtain ⟨_, rfl⟩ | ⟨_, rfl⟩ := execKeySetup_next.1 hexec
    · exact absurd rfl herr
    · rfl
  | ivSetup len =>
    obtain ⟨_, _, rfl⟩ | ⟨_, _, rfl⟩ | ⟨_, rfl⟩ := execIvSetup_next.1 hexec
    · exact absurd rfl herr
    · rfl
    · rfl
  | crypt len =>
    obtain ⟨_, rfl⟩ | ⟨_, _, rfl⟩ | ⟨_, _, _, rfl⟩ | ⟨_, _, rfl⟩ := execCrypt_next.1 hexec
    · rfl
    · exact absurd rfl herr
    · exact absurd rfl herr
    · rfl
  | zeroize =>
    obtain rfl := execZeroize_next.1 hexec
    exact absurd rfl herr

/-! ## BUSYERR -/

section
variable {s t : State}

/-- R115: a command other than ZEROIZE neither reads nor writes BUSYERR. -/
theorem exec_with_busyErr {i : Instr} (b : Bool) (hi : i ≠ .zeroize) (h : exec i s = .next t) :
    exec i { s with busyErr := b } = .next { t with busyErr := b } := by
  cases i with
  | nop =>
    obtain rfl := execNop_next.1 h
    exact execNop_next.2 rfl
  | keySetup len =>
    refine execKeySetup_next.2 ?_
    obtain ⟨hlen, rfl⟩ | ⟨hlen, rfl⟩ := execKeySetup_next.1 h
    · exact .inl ⟨hlen, rfl⟩
    · exact .inr ⟨hlen, rfl⟩
  | ivSetup len =>
    refine execIvSetup_next.2 ?_
    obtain ⟨hlen, hphase, rfl⟩ | ⟨hlen, hphase, rfl⟩ | ⟨hlen, rfl⟩ := execIvSetup_next.1 h
    · exact .inl ⟨hlen, hphase, rfl⟩
    · exact .inr (.inl ⟨hlen, hphase, rfl⟩)
    · exact .inr (.inr ⟨hlen, rfl⟩)
  | crypt len =>
    refine execCrypt_next.2 ?_
    obtain ⟨hlen, rfl⟩ | ⟨hlen, hphase, rfl⟩ | ⟨hpos, hlen, hphase, rfl⟩ | ⟨hlen, hphase, rfl⟩ :=
      execCrypt_next.1 h
    · exact .inl ⟨hlen, rfl⟩
    · exact .inr (.inl ⟨hlen, hphase, rfl⟩)
    · exact .inr (.inr (.inl ⟨hpos, hlen, hphase, rfl⟩))
    · exact .inr (.inr (.inr ⟨hlen, hphase, rfl⟩))
  | zeroize => exact absurd rfl hi

/-- What a command leaves in BUSYERR follows from its running alike with the value it started from. -/
theorem exec_keeps_busyErr {i : Instr} (hi : i ≠ .zeroize) (h : exec i s = .next t) :
    t.busyErr = s.busyErr := by
  have hsame : exec i s = .next { t with busyErr := s.busyErr } := exec_with_busyErr s.busyErr hi h
  have ht : t = { t with busyErr := s.busyErr } := Host.Outcome.next.inj (h.symm.trans hsame)
  exact congrArg (·.busyErr) ht

theorem writeReg_keeps_busyErr {r : Reg} (hr : r ≠ .status) (v : Word) (s : State) :
    (writeReg r v s).busyErr = s.busyErr := by
  cases r with
  | status => exact absurd rfl hr
  | _ => rfl

/-- R115: of the host's inputs only reset and the idle write of 1 to STATUS bit 1 clear BUSYERR. -/
theorem inputStep_clears_busyErr {a : Input} {rest : List Input} (hset : s.busyErr = true)
    (hclear : (inputStep a rest s).busyErr = false) :
    a = .reset
    ∨ ∃ v : Word, a = .write (regOffset .status) .bits32 v ∧ v.getLsbD 1 = true ∧ s.busy = false := by
  rcases inputStep_cases a rest s with
    ⟨ha, _⟩ | ⟨_, _, _, _, _, _, h⟩ | ⟨off, v, r, rfl, hoff, hidle, h⟩ | ⟨hengine, _⟩
  · exact .inl ha
  · simp [h] at hclear
  · rw [h] at hclear
    by_cases hr : r = .status
    · subst hr
      rw [writeReg, writeStatus_eq] at hclear
      refine .inr ⟨v, ?_, by simpa [hset] using hclear, hidle⟩
      rw [regOffset_of_regAtOffset hoff]
    · simp [writeReg_keeps_busyErr hr, hset] at hclear
  · simp [hengine, hset] at hclear

/-- R115: the three ways a step clears BUSYERR. -/
theorem step_clears_busyErr (hstep : step s = .next t) (hset : s.busyErr = true)
    (hclear : t.busyErr = false) :
    (∃ v : Word, s.takes (.write (regOffset .status) .bits32 v) ∧ v.getLsbD 1 = true ∧ s.busy = false)
    ∨ s.runs .zeroize ∨ s.takes .reset := by
  rcases step_cases.1 hstep with
    ⟨i, t0, hruns, hexec, rfl⟩ | ⟨_, _, _, rfl⟩ | ⟨_, _, rfl⟩ | ⟨a, rest, hturn, hinputs, rfl⟩
  · by_cases hi : i = .zeroize
    · exact .inr (.inl (hi ▸ hruns))
    · simp [exec_keeps_busyErr hi hexec, hset] at hclear
  · simp [hset] at hclear
  · simp [hset] at hclear
  · rcases inputStep_clears_busyErr hset hclear with rfl | ⟨v, rfl, hbit, hidle⟩
    · exact .inr (.inr ⟨hturn, rest, hinputs⟩)
    · exact .inl ⟨v, ⟨hturn, rest, hinputs⟩, hbit, hidle⟩

end

/-- Settles O16: the idle write, the ways a step clears BUSYERR, and the commands that do not look at
it. -/
theorem busyErrClearedOnlyByWriteZeroizeReset : Obligations.BusyErrClearedOnlyByWriteZeroizeReset := by
  refine ⟨fun v s hidle => ?_, fun _ _ => step_clears_busyErr, fun _ _ _ b => exec_with_busyErr b⟩
  have hwrite := busWrite_regOffset_of_idle v hidle .status
  exact ⟨fun hbit => hwrite.trans (writeStatus_of_bit_set s hbit),
    fun hbit => hwrite.trans (writeStatus_of_bit_clear s hbit)⟩

end Sys2Proof.Machine
end

section
/-! The key schedule: the key words byte by byte (R140), the initial state by halves of the key words
(R141 to R144), and KEY_SETUP (R147, R148). -/

namespace Sys2Proof.Machine

/-! ## Key words -/

/-- R52: byte `b` of word `i` is byte `4i + b` of the buffer. -/
theorem bufferByte_eq_byteOf_get (q : Quad) (i b : Fin 4) :
    bufferByte q (Fin.ofNat 16 (4 * i.val + b.val)) = byteOf (q.get i) b.val := by
  have hval : (Fin.ofNat 16 (4 * i.val + b.val)).val = 4 * i.val + b.val :=
    Nat.mod_eq_of_lt (by omega)
  have hbyte : (4 * i.val + b.val) % 4 = b.val := by omega
  have hword : (4 * i.val + b.val) / 4 = i.val := by omega
  simp only [bufferByte, hval, hbyte, hword]

/-- R140: byte `b` of key word `i` is key byte `4i + b`, or 0 from LEN on. -/
theorem byteOf_keyWords (key : Quad) (len : Nat) (i b : Fin 4) :
    byteOf ((keyWords key len).get i) b.val =
      if 4 * i.val + b.val < len then bufferByte key (Fin.ofNat 16 (4 * i.val + b.val)) else 0 := by
  rw [keyWords_get, byteMaskKeepsTheFirstBytes _ _ _ _ b.isLt, bufferByte_eq_byteOf_get]

/-- Settles O32: a word is LE32 of its own bytes, and those of a key word are known. -/
theorem keyWordsReadOnlyTheFirstBytes : Obligations.KeyWordsReadOnlyTheFirstBytes := by
  intro key len i byte
  have hbyte : ∀ b : Fin 4, byteOf ((keyWords key len).get i) b.val = byte b :=
    byteOf_keyWords key len i
  rw [← hbyte 0, ← hbyte 1, ← hbyte 2, ← hbyte 3]
  exact (le32_byteOf _).symm

/-- R148: the key words do not read the key's bytes at LEN and beyond. -/
theorem keyWords_congr {key key' : Quad} {len : Nat}
    (h : ∀ j : Fin 16, j.val < len → bufferByte key j = bufferByte key' j) :
    keyWords key len = keyWords key' len := by
  refine Quad.ext_get fun i => eq_of_byteOf_eq fun b hb => ?_
  rw [byteOf_keyWords key len i ⟨b, hb⟩, byteOf_keyWords key' len i ⟨b, hb⟩]
  split
  next hlen => exact h _ (lt_of_le_of_lt (Nat.mod_le _ _) hlen)
  next => rfl

theorem keyWords_eq_ofFn (key : Quad) (len : Nat) :
    keyWords key len = Quad.ofFn fun i => key.get i &&& byteMask len i.val :=
  Quad.ext_get fun i => by rw [keyWords_get, Quad.get_ofFn]

/-! ## The initial state -/

/-- R141: two shifts by 16 put the low half of one word over the high half of another. -/
theorem shiftLeft_or_shiftRight_eq_append (a b : Word) :
    a <<< 16 ||| b >>> 16 = a.extractLsb' 0 16 ++ b.extractLsb' 16 16 := by
  have ha : a <<< 16 = a.extractLsb' 0 16 ++ 0#16 := BitVec.shiftLeft_eq_concat_of_lt (by decide)
  have hb : b >>> 16 = 0#16 ++ b.extractLsb' 16 16 :=
    BitVec.ushiftRight_eq_extractLsb'_of_lt (by decide)
  rw [ha, hb, BitVec.or_append, BitVec.or_zero, BitVec.zero_or]

/-- A mask given by halves acts on each half of the word. -/
theorem and_halves (w : Word) (mhi mlo : BitVec 16) :
    w &&& (mhi ++ mlo) = (w.extractLsb' 16 16 &&& mhi) ++ (w.extractLsb' 0 16 &&& mlo) := by
  have hw : w.extractLsb' 16 16 ++ w.extractLsb' 0 16 = w :=
    BitVec.extractLsb'_append_extractLsb' (w := 16) (len := 16)
  rw [← BitVec.and_append, hw]

/-- R143: two masks put the high half of one word over the low half of another. -/
theorem and_or_and_eq_append (a b : Word) :
    a &&& 0xFFFF0000 ||| b &&& 0x0000FFFF = a.extractLsb' 16 16 ++ b.extractLsb' 0 16 := by
  have hhigh : (0xFFFF0000 : Word) = BitVec.allOnes 16 ++ 0#16 := rfl
  have hlow : (0x0000FFFF : Word) = 0#16 ++ BitVec.allOnes 16 := rfl
  rw [hhigh, hlow, and_halves, and_halves, BitVec.or_append]
  simp only [BitVec.and_allOnes, BitVec.and_zero, BitVec.or_zero, BitVec.zero_or]

/-- Settles O31: the even counter words are rotations by definition; every other word joins two halves. -/
theorem keyInitialStateFromKeyHalves : Obligations.KeyInitialStateFromKeyHalves := by
  intro k hi lo
  simp only [hi, lo, ← shiftLeft_or_shiftRight_eq_append, ← and_or_and_eq_append]
  exact ⟨rfl, rfl, rfl⟩

/-! ## KEY_SETUP -/

theorem keyLengthOk_iff (len : Nat) : keyLengthOk len = true ↔ 1 ≤ len ∧ len ≤ 16 :=
  decide_eq_true_iff

section
variable {len : Nat} (s : State)

theorem exec_keySetup_of_lengthOk (h : 1 ≤ len ∧ len ≤ 16) :
    exec (.keySetup len) s = .next
      { s with
        orderL := s.ctrlOrder
        cipher := keySchedule s.ctrlOrder (keyWords s.key len)
        phase := .keyDone
        err := .noError } :=
  execKeySetup_next.2 (.inl ⟨(keyLengthOk_iff len).2 h, rfl⟩)

theorem exec_keySetup_of_not_lengthOk (h : ¬ (1 ≤ len ∧ len ≤ 16)) :
    exec (.keySetup len) s = .next { s with err := .invalidKeyLength } :=
  execKeySetup_next.2 (.inr ⟨Bool.eq_false_iff.2 (mt (keyLengthOk_iff len).1 h), rfl⟩)

end

/-- Settles O30: the two outcomes of KEY_SETUP; `keySchedule` is the four transitions and the counter
XOR. -/
theorem keySetupSchedulesOrRejectsTheKey : Obligations.KeySetupSchedulesOrRejectsTheKey := by
  intro len s
  constructor
  · intro hlen
    exact exec_keySetup_of_not_lengthOk s (by omega)
  · intro hpos hle k next four
    rw [exec_keySetup_of_lengthOk s ⟨hpos, hle⟩, keyWords_eq_ofFn]
    rfl

/-- Settles O33: both runs succeed, and schedule the same key words in the same order. -/
theorem keySetupIgnoresTheEarlierState : Obligations.KeySetupIgnoresTheEarlierState := by
  intro len s s' hpos hle horder hkey
  refine ⟨_, _, exec_keySetup_of_lengthOk s ⟨hpos, hle⟩, exec_keySetup_of_lengthOk s' ⟨hpos, hle⟩,
    ?_, horder, rfl, rfl⟩
  simp only [horder, keyWords_congr hkey]

end Sys2Proof.Machine
end

section
/-! The IV schedule: the IV words byte by byte (R160), the derived words by halves (R161, R162), and
IV_SETUP (R163, R165). -/

namespace Sys2Proof.Machine

/-! ## IV words -/

theorem ivWords_get (iv : Pair) (len : Nat) (i : Fin 2) :
    (ivWords iv len).get i = iv.get i &&& byteMask len i.val := by
  fin_cases i <;> rfl

/-- R52: byte `b` of word `i` is byte `4i + b` of the IV buffer. -/
theorem ivByte_eq_byteOf_get (p : Pair) (i : Fin 2) (b : Fin 4) :
    ivByte p (Fin.ofNat 8 (4 * i.val + b.val)) = byteOf (p.get i) b.val := by
  have hval : (Fin.ofNat 8 (4 * i.val + b.val)).val = 4 * i.val + b.val :=
    Nat.mod_eq_of_lt (by omega)
  have hbyte : (4 * i.val + b.val) % 4 = b.val := by omega
  have hword : (4 * i.val + b.val) / 4 = i.val := by omega
  simp only [ivByte, hval, hbyte, hword]

/-- R160: byte `b` of IV word `i` is IV byte `4i + b`, or 0 from LEN on. -/
theorem byteOf_ivWords (iv : Pair) (len : Nat) (i : Fin 2) (b : Fin 4) :
    byteOf ((ivWords iv len).get i) b.val =
      if 4 * i.val + b.val < len then ivByte iv (Fin.ofNat 8 (4 * i.val + b.val)) else 0 := by
  rw [ivWords_get, byteMaskKeepsTheFirstBytes _ _ _ _ b.isLt, ivByte_eq_byteOf_get]

/-- Settles O35: a word is LE32 of its own bytes, and those of an IV word are known. -/
theorem ivWordsReadOnlyTheFirstBytes : Obligations.IvWordsReadOnlyTheFirstBytes := by
  intro iv len i byte
  have hbyte : ∀ b : Fin 4, byteOf ((ivWords iv len).get i) b.val = byte b :=
    byteOf_ivWords iv len i
  rw [← hbyte 0, ← hbyte 1, ← hbyte 2, ← hbyte 3]
  exact (le32_byteOf _).symm

/-! ## The derived words and the perturbation -/

/-- R161: a mask and a shift put the high half of one word over the high half of another. -/
theorem and_or_shiftRight_eq_append (a b : Word) :
    a &&& (0xFFFF0000 : Word) ||| b >>> 16 = a.extractLsb' 16 16 ++ b.extractLsb' 16 16 := by
  have hhigh : (0xFFFF0000 : Word) = BitVec.allOnes 16 ++ 0#16 := rfl
  have hb : b >>> 16 = 0#16 ++ b.extractLsb' 16 16 :=
    BitVec.ushiftRight_eq_extractLsb'_of_lt (by decide)
  rw [hhigh, hb, and_halves, BitVec.or_append]
  simp only [BitVec.and_allOnes, BitVec.and_zero, BitVec.or_zero, BitVec.zero_or]

/-- R161: a shift and a mask put the low half of one word over the low half of another. -/
theorem shiftLeft_or_and_eq_append (a b : Word) :
    a <<< 16 ||| b &&& (0x0000FFFF : Word) = a.extractLsb' 0 16 ++ b.extractLsb' 0 16 := by
  have hlow : (0x0000FFFF : Word) = 0#16 ++ BitVec.allOnes 16 := rfl
  have ha : a <<< 16 = a.extractLsb' 0 16 ++ 0#16 := BitVec.shiftLeft_eq_concat_of_lt (by decide)
  rw [hlow, ha, and_halves, BitVec.or_append]
  simp only [BitVec.and_allOnes, BitVec.and_zero, BitVec.or_zero, BitVec.zero_or]

/-- R162: limb `i` takes word `i mod 4` of iv0, iv2, iv1, iv3. -/
theorem ivPerturb_c_get (iv : Pair) (s : Cipher) (i : Fin 8) :
    (ivPerturb iv s).c.get i
      = s.c.get i ^^^ (Quad.mk iv.w0 (iv2Word iv) iv.w1 (iv3Word iv)).get (Fin.ofNat 4 i.val) := by
  fin_cases i <;> rfl

/-- Settles O36: the two derived words by halves, the perturbation limb by limb, and X and CARRY kept by
definition. -/
theorem ivDerivedWordsPairTheHalves : Obligations.IvDerivedWordsPairTheHalves :=
  fun iv s => ⟨and_or_shiftRight_eq_append iv.w1 iv.w0, shiftLeft_or_and_eq_append iv.w1 iv.w0,
    ivPerturb_c_get iv s, rfl, rfl⟩

/-! ## IV_SETUP -/

/-- R165: a length is refused by the range policy, or by the exact one. -/
theorem ivLengthOk_eq_false_iff (exact8 : Bool) (len : Nat) :
    ivLengthOk exact8 len = false ↔
      (exact8 = false ∧ (len < 1 ∨ 8 < len)) ∨ (exact8 = true ∧ len ≠ 8) := by
  cases exact8 with
  | false =>
    have hrange : ¬ (1 ≤ len ∧ len ≤ 8) ↔ len < 1 ∨ 8 < len := by omega
    simpa [ivLengthOk] using hrange
  | true => simp [ivLengthOk]

/-- Settles O34: the three outcomes of IV_SETUP; `ivSchedule` is the counter XOR and the four
transitions. -/
theorem ivSetupSchedulesOrRejectsTheIv : Obligations.IvSetupSchedulesOrRejectsTheIv := by
  intro len s bad
  have hbad : ivLengthOk s.ctrlIvExact8 len = false ↔ bad := ivLengthOk_eq_false_iff _ len
  have hgood (h : ¬ bad) : ivLengthOk s.ctrlIvExact8 len = true :=
    Bool.of_not_eq_false (mt hbad.1 h)
  refine ⟨fun h => ?_, fun h hphase => ?_, fun h hphase => ?_⟩
  · exact execIvSetup_next.2 (.inr (.inr ⟨hbad.2 h, rfl⟩))
  · exact execIvSetup_next.2 (.inr (.inl ⟨hgood h, hphase, rfl⟩))
  · exact execIvSetup_next.2 (.inl ⟨hgood h, hphase, rfl⟩)

end Sys2Proof.Machine
end

section
/-! The state transition's units: the counter constants (R180), the counter update limb by limb and as one
256-bit addition (R181 to R183), the G function's closed form (R185), and the pattern of the state word
update (R187). -/

namespace Sys2Proof.Machine

/-! ## The counter, limb by limb -/

/-- Settles O38: the eight constants are literals. -/
theorem counterConstantsHavePeriodThree : Obligations.CounterConstantsHavePeriodThree :=
  ⟨rfl, rfl, rfl, by decide⟩

theorem limbCarry_eq_true_iff (old a : Word) (cin : Bool) :
    limbCarry old a cin = true ↔ (limbSum old a cin).toNat < old.toNat := by
  rw [limbCarry_eq, decide_eq_true_iff]

/-- R181: the carry into limb `i`; into the limb after the last one, the carry out (R182). -/
def carryInto (c : Octet) (carry : Bool) : Nat → Bool
  | 0 => carry
  | i + 1 => limbCarry (c.get (Fin.ofNat 8 i)) (ctrConst.get (Fin.ofNat 8 i)) (carryInto c carry i)

section
variable (c : Octet) (carry : Bool)

theorem ctrUpdate_get (i : Fin 8) :
    (ctrUpdate c carry).1.get i = limbSum (c.get i) (ctrConst.get i) (carryInto c carry i.val) := by
  fin_cases i <;> rfl

theorem ctrUpdate_carry : (ctrUpdate c carry).2 = carryInto c carry 8 := rfl

theorem carryInto_eq_true_iff {i : Fin 8} (hi : i ≠ 0) : carryInto c carry i.val = true ↔
    ((ctrUpdate c carry).1.get (i - 1)).toNat < (c.get (i - 1)).toNat := by
  fin_cases i
  · exact absurd rfl hi
  all_goals exact limbCarry_eq_true_iff _ _ _

end

/-- Settles O37: every limb adds `carryInto`, which `carryInto_eq_true_iff` reads off the limb below. -/
theorem counterLimbsTakeTheCarryBelow : Obligations.CounterLimbsTakeTheCarryBelow := by
  intro c carry new
  refine ⟨rfl, fun i hi => ?_, limbCarry_eq_true_iff _ _ _⟩
  rw [ctrUpdate_get, limbSum_eq, carryWord]
  simp only [carryInto_eq_true_iff c carry hi, new]

/-! ## The counter as one number -/

/-- A part below the modulus and one carry bit are the remainder and the overflow of their sum. -/
theorem eq_mod_and_carry_iff {m low sum : Nat} {carry : Bool} (hlow : low < m)
    (hsum : low + m * carry.toNat = sum) : low = sum % m ∧ (carry = true ↔ m ≤ sum) := by
  subst hsum
  rw [Nat.add_mul_mod_self_left, Nat.mod_eq_of_lt hlow]
  cases carry with
  | false => simpa using hlow
  | true => simp

/-- Eight limbs hold a number below 2^256. -/
theorem octetValue_lt (o : Octet) : octetValue o < 2 ^ 256 := by
  have h0 := o.w0.isLt
  have h1 := o.w1.isLt
  have h2 := o.w2.isLt
  have h3 := o.w3.isLt
  have h4 := o.w4.isLt
  have h5 := o.w5.isLt
  have h6 := o.w6.isLt
  have h7 := o.w7.isLt
  unfold octetValue
  omega

theorem octetValue_eq_sum (o : Octet) :
    octetValue o = ∑ i ∈ Finset.range 8, (o.get (Fin.ofNat 8 i)).toNat * 2 ^ (32 * i) := by
  simp only [Finset.sum_range_succ, Finset.sum_range_zero, Nat.zero_add, Nat.mul_zero, Nat.pow_zero,
    Nat.mul_one]
  rfl

/-- R183: one limb of the update as numbers, the carry out weighted by 2^32. -/
theorem ctrUpdate_get_toNat (c : Octet) (carry : Bool) {i : Nat} (hi : i < 8) :
    ((ctrUpdate c carry).1.get (Fin.ofNat 8 i)).toNat + 2 ^ 32 * (carryInto c carry (i + 1)).toNat
      = (c.get (Fin.ofNat 8 i)).toNat + (ctrConst.get (Fin.ofNat 8 i)).toNat
        + (carryInto c carry i).toNat := by
  have hval : (Fin.ofNat 8 i).val = i := Nat.mod_eq_of_lt hi
  rw [ctrUpdate_get, hval]
  exact limb_toNat _ _ _ (ctrConst_lt _)

/-- R183: the lowest `n` limbs are one addition, with the carry into limb `n` weighted by 2^(32 n). -/
theorem sum_ctrUpdate_get (c : Octet) (carry : Bool) {n : Nat} (hn : n ≤ 8) :
    ∑ i ∈ Finset.range n, ((ctrUpdate c carry).1.get (Fin.ofNat 8 i)).toNat * 2 ^ (32 * i)
        + 2 ^ (32 * n) * (carryInto c carry n).toNat
      = ∑ i ∈ Finset.range n, (c.get (Fin.ofNat 8 i)).toNat * 2 ^ (32 * i)
        + ∑ i ∈ Finset.range n, (ctrConst.get (Fin.ofNat 8 i)).toNat * 2 ^ (32 * i)
        + carry.toNat := by
  induction n with
  | zero => simp [carryInto]
  | succ n ih =>
    have hlimb := ctrUpdate_get_toNat c carry (i := n) (by omega)
    simp only [Finset.sum_range_succ]
    linear_combination ih (by omega) + 2 ^ (32 * n) * hlimb

/-- R183: the update as numbers, the carry out weighted by 2^256. -/
theorem octetValue_ctrUpdate (c : Octet) (carry : Bool) :
    octetValue (ctrUpdate c carry).1 + 2 ^ 256 * (ctrUpdate c carry).2.toNat
      = octetValue c + octetValue ctrConst + carry.toNat := by
  rw [octetValue_eq_sum, octetValue_eq_sum, octetValue_eq_sum, ctrUpdate_carry]
  exact sum_ctrUpdate_get c carry le_rfl

/-- R183: one limb's sum, compared with 2^32 as a number and by the wrapped limb. -/
theorem limbSum_lt_iff_overflow (old a : Word) (cin : Bool) (ha : a.toNat < 2 ^ 32 - 1) :
    (limbSum old a cin).toNat < old.toNat ↔ 2 ^ 32 ≤ old.toNat + a.toNat + cin.toNat :=
  (limbCarry_eq_true_iff old a cin).symm.trans
    (eq_mod_and_carry_iff (limbSum old a cin).isLt (limb_toNat old a cin ha)).2

/-- Settles O39: the limb's carry by `limbSum_lt_iff_overflow`, the whole counter by
`octetValue_ctrUpdate`. -/
theorem counterUpdateIsOne256BitAddition : Obligations.CounterUpdateIsOne256BitAddition := by
  have hbit (b : Bool) : (if b = true then 1 else 0) = b.toNat := (Bool.cond_eq_ite b 1 0).symm
  refine ⟨fun old i cin => ?_, fun c carry => ?_⟩
  · have hconst := ctrConst_lt i
    rw [hbit]
    refine ⟨?_, (limbSum_lt_iff_overflow old _ cin hconst).symm⟩
    have hold := old.isLt
    have hcin := cin.toNat_le
    omega
  · rw [hbit]
    exact eq_mod_and_carry_iff (octetValue_lt _) (octetValue_ctrUpdate c carry)

/-! ## The G function -/

/-- A product of two 16-bit numbers. -/
theorem mul_le_of_lt_two_pow_16 {m n : Nat} (hm : m < 2 ^ 16) (hn : n < 2 ^ 16) :
    m * n ≤ 0xFFFE0001 :=
  Nat.mul_le_mul (Nat.le_of_lt_succ hm) (Nat.le_of_lt_succ hn)

theorem ofNat_ushiftRight {x : Nat} (hx : x < 2 ^ 32) (n : Nat) :
    BitVec.ofNat 32 x >>> n = BitVec.ofNat 32 (x / 2 ^ n) := by
  apply BitVec.eq_of_toNat_eq
  have hdiv : x / 2 ^ n < 2 ^ 32 := (Nat.div_le_self _ _).trans_lt hx
  rw [BitVec.toNat_ushiftRight, BitVec.toNat_ofNat, BitVec.toNat_ofNat, Nat.mod_eq_of_lt hx,
    Nat.mod_eq_of_lt hdiv, Nat.shiftRight_eq_div_pow]

theorem and_lowMask_eq_ofNat (v : Word) : v &&& 0x0000FFFF = BitVec.ofNat 32 (v.toNat % 2 ^ 16) := by
  apply BitVec.eq_of_toNat_eq
  have hlt : v.toNat % 2 ^ 16 < 2 ^ 32 := by omega
  rw [BitVec.toNat_and, BitVec.toNat_ofNat, Nat.mod_eq_of_lt hlt]
  exact Nat.and_two_pow_sub_one_eq_mod v.toNat 16

theorem ushiftRight_eq_ofNat (v : Word) (n : Nat) : v >>> n = BitVec.ofNat 32 (v.toNat / 2 ^ n) := by
  rw [← ofNat_ushiftRight v.isLt, BitVec.ofNat_toNat, BitVec.setWidth_eq]

/-- R185: the high half of the square from the halves of the word, the nested floors as one. -/
theorem square_div_two_pow_32 (a b : Nat) :
    (2 ^ 16 * b + a) * (2 ^ 16 * b + a) / 2 ^ 32 = (a * a / 2 ^ 17 + a * b) / 2 ^ 15 + b * b := by
  have hsq : (2 ^ 16 * b + a) * (2 ^ 16 * b + a) = 2 ^ 32 * (b * b) + 2 ^ 17 * (a * b) + a * a := by
    ring
  rw [hsq]
  omega

/-- R184's sums stay below 2^32. -/
theorem gFun_sums_lt {a b : Nat} (ha : a < 2 ^ 16) (hb : b < 2 ^ 16) :
    a * a / 2 ^ 17 + a * b < 2 ^ 32 ∧ (a * a / 2 ^ 17 + a * b) / 2 ^ 15 + b * b < 2 ^ 32 := by
  have haa := mul_le_of_lt_two_pow_16 ha ha
  have hab := mul_le_of_lt_two_pow_16 ha hb
  have hbb := mul_le_of_lt_two_pow_16 hb hb
  omega

/-- R184: with no wrap on the way, the word formula for `h` is the formula over the numbers. -/
theorem gFun_eq_ofNat (v : Word) :
    let a := v.toNat % 2 ^ 16
    let b := v.toNat / 2 ^ 16
    gFun v = BitVec.ofNat 32 ((a * a / 2 ^ 17 + a * b) / 2 ^ 15 + b * b)
      ^^^ BitVec.ofNat 32 (v.toNat * v.toNat) := by
  intro a b
  have ha : a < 2 ^ 16 := Nat.mod_lt _ (by decide)
  have hb : b < 2 ^ 16 := Nat.div_lt_of_lt_mul v.isLt
  have haa : a * a < 2 ^ 32 := (mul_le_of_lt_two_pow_16 ha ha).trans_lt (by decide)
  have hv : v * v = BitVec.ofNat 32 (v.toNat * v.toNat) := by
    rw [BitVec.ofNat_mul, BitVec.ofNat_toNat, BitVec.setWidth_eq]
  simp only [gFun]
  rw [hv, and_lowMask_eq_ofNat, ushiftRight_eq_ofNat v 16, BitVec.ofNat_mul_ofNat,
    BitVec.ofNat_mul_ofNat, BitVec.ofNat_mul_ofNat, ofNat_ushiftRight haa, BitVec.ofNat_add_ofNat,
    ofNat_ushiftRight (gFun_sums_lt ha hb).1, BitVec.ofNat_add_ofNat]

/-- Settles O40: `gFun_eq_ofNat`, and its first half is the square's high half. -/
theorem gFunctionXorsTheHalvesOfTheSquare : Obligations.GFunctionXorsTheHalvesOfTheSquare := by
  intro v sq a b
  have ha : a < 2 ^ 16 := Nat.mod_lt _ (by decide)
  have hb : b < 2 ^ 16 := Nat.div_lt_of_lt_mul v.isLt
  have hv : 2 ^ 16 * b + a = v.toNat := Nat.div_add_mod _ _
  have hhigh : sq / 2 ^ 32 = (a * a / 2 ^ 17 + a * b) / 2 ^ 15 + b * b := by
    rw [← square_div_two_pow_32, hv]
  refine ⟨?_, mul_le_of_lt_two_pow_16 ha ha, mul_le_of_lt_two_pow_16 ha hb,
    mul_le_of_lt_two_pow_16 hb hb, gFun_sums_lt ha hb⟩
  rw [hhigh]
  exact gFun_eq_ofNat v

/-! ## The state words -/

/-- Settles O41: word by word, the eight updates are the pattern's instances. -/
theorem stateWordUpdateFollowsThePattern : Obligations.StateWordUpdateFollowsThePattern := by
  intro g i
  fin_cases i <;> rfl

end Sys2Proof.Machine
end

section
/-! The keystream extractor (R210, R211), CRYPT in every phase and its output byte by byte (R213 to R215,
R219), the keystream block of each CRYPT of a sequence (R217), and what a step does to PHASE (R216). -/

namespace Sys2Proof.Machine

/-! ## The keystream block -/

/-- R210: keystream word `k` by the words of X it reads. -/
theorem extract_get (x : Octet) (k : Fin 4) :
    (extract x).get k = x.get (Fin.ofNat 8 (2 * k.val))
      ^^^ (x.get (Fin.ofNat 8 (2 * k.val + 5)) >>> 16) ^^^ (x.get (Fin.ofNat 8 (2 * k.val + 3)) <<< 16) := by
  fin_cases k <;> rfl

/-- R210: the two shifts swap halves, so the XOR is one of halves. -/
theorem xor_shiftRight_xor_shiftLeft_eq_append (a b c : Word) :
    a ^^^ (b >>> 16) ^^^ (c <<< 16)
      = (a.extractLsb' 16 16 ^^^ c.extractLsb' 0 16) ++ (a.extractLsb' 0 16 ^^^ b.extractLsb' 16 16) := by
  have ha : a = a.extractLsb' 16 16 ++ a.extractLsb' 0 16 :=
    (BitVec.extractLsb'_append_extractLsb' (w := 16) (len := 16)).symm
  have hb : b >>> 16 = 0#16 ++ b.extractLsb' 16 16 :=
    BitVec.ushiftRight_eq_extractLsb'_of_lt (by decide)
  have hc : c <<< 16 = c.extractLsb' 0 16 ++ 0#16 := BitVec.shiftLeft_eq_concat_of_lt (by decide)
  conv_lhs => rw [ha, hb, hc]
  rw [BitVec.xor_append, BitVec.xor_append, BitVec.xor_zero, BitVec.xor_zero]

/-- Settles O43: each keystream word is its two halves, joined. -/
theorem extractorXorsTheHalves : Obligations.ExtractorXorsTheHalves := by
  intro x k even
  rw [extract_get, xor_shiftRight_xor_shiftLeft_eq_append]
  exact ⟨BitVec.extractLsb'_append_eq_right, BitVec.extractLsb'_append_eq_left⟩

/-- R52, R211: the keystream bytes are the bytes of the four words as a 16-byte buffer. -/
theorem getElem?_keystreamBytes (ks : Quad) (j : Fin 16) :
    (keystreamBytes ks)[j.val]? = some (bufferByte ks j) := by
  fin_cases j <;> rfl

/-- Settles O44: byte `4k + b` of the buffer is byte `b` of word `k`. -/
theorem keystreamBytesAreTheWordsInOrder : Obligations.KeystreamBytesAreTheWordsInOrder := by
  refine fun ks => ⟨rfl, fun k b => ?_⟩
  have hval : (Fin.ofNat 16 (4 * k.val + b.val)).val = 4 * k.val + b.val :=
    Nat.mod_eq_of_lt (by omega)
  have hbyte := getElem?_keystreamBytes ks (Fin.ofNat 16 (4 * k.val + b.val))
  rwa [hval, bufferByte_eq_byteOf_get] at hbyte

/-! ## CRYPT -/

theorem cryptOutput_eq_ofFn (din ks : Quad) (len : Nat) :
    cryptOutput din ks len = Quad.ofFn fun k => (din.get k ^^^ ks.get k) &&& byteMask len k.val :=
  Quad.ext_get fun k => by rw [cryptOutput_get, Quad.get_ofFn]

/-- R214: output byte `j` is input XOR keystream below LEN, and 0 from LEN on. -/
theorem bufferByte_cryptOutput (din ks : Quad) (len : Nat) (j : Fin 16) :
    bufferByte (cryptOutput din ks len) j =
      if j.val < len then bufferByte din j ^^^ bufferByte ks j else 0 := by
  have hj : 4 * (j.val / 4) + j.val % 4 = j.val := Nat.div_add_mod _ _
  simp only [bufferByte, cryptOutput_get]
  rw [byteMaskKeepsTheFirstBytes _ _ _ _ (Nat.mod_lt _ (by decide)), hj, byteOf_xor]

section
variable {len : Nat} {s : State}

/-- R219: CRYPT outside the keystream phases. -/
theorem exec_crypt_of_not_keystreamPhase (hlen : len ≤ 16) (hphase : ¬ keystreamPhase s.phase = true) :
    exec (.crypt len) s = .next { s with err := .sequenceError } :=
  execCrypt_next.2 (.inr (.inr (.inr ⟨hlen, Bool.eq_false_iff.2 hphase, rfl⟩)))

/-- R215: CRYPT of no byte. -/
theorem exec_crypt_zero (hphase : s.phase = .keyed ∨ s.phase = .streaming) :
    exec (.crypt 0) s = .next { s with phase := .streaming, err := .noError } :=
  execCrypt_next.2 (.inr (.inl ⟨rfl, (keystreamPhase_iff _).2 hphase, rfl⟩))

/-- R213: CRYPT of a block. -/
theorem exec_crypt_of_pos (hphase : s.phase = .keyed ∨ s.phase = .streaming) (hpos : 1 ≤ len)
    (hle : len ≤ 16) :
    exec (.crypt len) s = .next { cryptBlock len s with phase := .streaming, err := .noError } :=
  execCrypt_next.2 (.inr (.inr (.inl ⟨hpos, hle, (keystreamPhase_iff _).2 hphase, rfl⟩)))

end

/-- Settles O45: the three outcomes of CRYPT with a legal LEN. -/
theorem cryptTransformsTheBlockOrIsRefused : Obligations.CryptTransformsTheBlockOrIsRefused := by
  refine fun len s hle => ⟨fun hkeyed hstreaming => ?_, fun hphase hzero => ?_, fun hphase hpos => ?_⟩
  · exact exec_crypt_of_not_keystreamPhase hle (by simp [keystreamPhase_iff, hkeyed, hstreaming])
  · subst hzero
    exact exec_crypt_zero hphase
  · intro new
    rw [exec_crypt_of_pos hphase hpos hle, ← cryptOutput_eq_ofFn]
    rfl

/-- Settles O46: CRYPT of a block leaves `cryptOutput` of the new keystream in DOUT. -/
theorem cryptOutputIsMaskedByteByByte : Obligations.CryptOutputIsMaskedByteByByte :=
  fun _ _ j hpos hle hphase => ⟨_, exec_crypt_of_pos hphase hpos hle, getElem?_keystreamBytes _ j,
    bufferByte_cryptOutput _ _ _ j⟩

/-! ## Sequences of CRYPTs -/

/-- R217: counting from one transition later is counting one block on. -/
theorem keystreamBlock_nextState (o : TransOrder) (c : Cipher) (k : Nat) :
    keystreamBlock o (nextState o c) k = keystreamBlock o c (k + 1) := by
  rw [keystreamBlock, transitions_nextState, keystreamBlock]

/-- R218: after a CRYPT that succeeds the driver goes on from the state it leaves. -/
theorem cryptChunks_cons {s t : State} {p : Quad × Nat} (rest : List (Quad × Nat))
    (hexec : exec (.crypt p.2) { s with din := p.1 } = .next t) (hsuccess : t.err = .noError) :
    cryptChunks s (p :: rest) = t.dout :: cryptChunks t rest := by
  rw [cryptChunks, hexec]
  exact if_pos hsuccess

/-- R217, R218: the outputs of a sequence of blocks, each with the keystream block of its position. -/
theorem cryptChunks_eq_mapIdx (s : State) (chunks : List (Quad × Nat))
    (hphase : s.phase = .keyed ∨ s.phase = .streaming) (hlen : ∀ p ∈ chunks, 1 ≤ p.2 ∧ p.2 ≤ 16) :
    cryptChunks s chunks
      = chunks.mapIdx fun k p => cryptOutput p.1 (keystreamBlock s.orderL s.cipher k) p.2 := by
  induction chunks generalizing s with
  | nil => rfl
  | cons p rest ih =>
    obtain ⟨⟨hpos, hle⟩, hrest⟩ := List.forall_mem_cons.1 hlen
    have hexec := exec_crypt_of_pos (s := { s with din := p.1 }) hphase hpos hle
    rw [cryptChunks_cons rest hexec rfl, ih _ (.inr rfl) hrest, List.mapIdx_cons]
    simp only [cryptBlock_orderL, cryptBlock_cipher, keystreamBlock_nextState]
    rfl

/-- Settles O48: `cryptChunks_eq_mapIdx`, read at position `k` byte by byte. -/
theorem eachCryptUsesItsOwnKeystreamBlock : Obligations.EachCryptUsesItsOwnKeystreamBlock := by
  intro s chunks hphase hlen
  rw [cryptChunks_eq_mapIdx s chunks hphase hlen]
  refine ⟨List.length_mapIdx, fun k din out len j hchunk hout => ?_⟩
  rw [List.getElem?_mapIdx, hchunk] at hout
  obtain rfl := Option.some.inj hout
  exact bufferByte_cryptOutput _ _ _ j

/-! ## PHASE -/

section
variable {s t : State}

/-- R27: what each command does to PHASE. -/
theorem exec_phase_cases {i : Instr} (h : exec i s = .next t) :
    t.phase = s.phase
    ∨ (∃ len, i = .keySetup len ∧ t.phase = .keyDone)
    ∨ (∃ len, i = .ivSetup len ∧ s.phase = .keyDone ∧ t.phase = .keyed)
    ∨ (∃ len, i = .crypt len ∧ (s.phase = .keyed ∨ s.phase = .streaming) ∧ t.phase = .streaming)
    ∨ (i = .zeroize ∧ t.phase = .uninit) := by
  cases i with
  | nop =>
    obtain rfl := execNop_next.1 h
    exact .inl rfl
  | keySetup len =>
    obtain ⟨_, rfl⟩ | ⟨_, rfl⟩ := execKeySetup_next.1 h
    · exact .inr (.inl ⟨len, rfl, rfl⟩)
    · exact .inl rfl
  | ivSetup len =>
    obtain ⟨_, hphase, rfl⟩ | ⟨_, _, rfl⟩ | ⟨_, rfl⟩ := execIvSetup_next.1 h
    · exact .inr (.inr (.inl ⟨len, rfl, hphase, rfl⟩))
    · exact .inl rfl
    · exact .inl rfl
  | crypt len =>
    obtain ⟨_, rfl⟩ | ⟨_, hphase, rfl⟩ | ⟨_, _, hphase, rfl⟩ | ⟨_, _, rfl⟩ := execCrypt_next.1 h
    · exact .inl rfl
    · exact .inr (.inr (.inr (.inl ⟨len, rfl, (keystreamPhase_iff _).1 hphase, rfl⟩)))
    · exact .inr (.inr (.inr (.inl ⟨len, rfl, (keystreamPhase_iff _).1 hphase, rfl⟩)))
    · exact .inl rfl
  | zeroize =>
    obtain rfl := execZeroize_next.1 h
    exact .inr (.inr (.inr (.inr ⟨rfl, rfl⟩)))

theorem writeReg_phase (r : Reg) (v : Word) (s : State) : (writeReg r v s).phase = s.phase := by
  cases r with
  | status => rw [writeReg, writeStatus_eq]
  | _ => rfl

/-- R27, R270: of the host's inputs only reset writes PHASE. -/
theorem inputStep_phase_cases (a : Input) (rest : List Input) (s : State) :
    (inputStep a rest s).phase = s.phase ∨ (a = .reset ∧ (inputStep a rest s).phase = .uninit) := by
  rcases inputStep_cases a rest s with
    ⟨ha, h⟩ | ⟨_, _, _, _, _, _, h⟩ | ⟨_, v, r, _, _, _, h⟩ | ⟨hengine, _⟩
  · exact .inr ⟨ha, by rw [h]; rfl⟩
  · exact .inl (by rw [h]; rfl)
  · exact .inl (by rw [h, writeReg_phase]; rfl)
  · exact .inl (congrArg (·.phase) hengine)

/-- R27: a step keeps PHASE, unless it runs a command that succeeds in writing it, or takes reset. -/
theorem step_phase_cases (hstep : step s = .next t) :
    t.phase = s.phase
    ∨ (∃ len, s.runs (.keySetup len) ∧ t.phase = .keyDone)
    ∨ (∃ len, s.runs (.ivSetup len) ∧ s.phase = .keyDone ∧ t.phase = .keyed)
    ∨ (∃ len, s.runs (.crypt len) ∧ (s.phase = .keyed ∨ s.phase = .streaming) ∧ t.phase = .streaming)
    ∨ (s.runs .zeroize ∧ t.phase = .uninit)
    ∨ (s.takes .reset ∧ t.phase = .uninit) := by
  rcases step_cases.1 hstep with
    ⟨i, t0, hruns, hexec, rfl⟩ | ⟨_, _, _, rfl⟩ | ⟨_, _, rfl⟩ | ⟨a, rest, hturn, hinputs, rfl⟩
  · obtain hkept | ⟨len, rfl, h⟩ | ⟨len, rfl, h⟩ | ⟨len, rfl, h⟩ | ⟨rfl, h⟩ := exec_phase_cases hexec
    · exact .inl hkept
    · exact .inr (.inl ⟨len, hruns, h⟩)
    · exact .inr (.inr (.inl ⟨len, hruns, h⟩))
    · exact .inr (.inr (.inr (.inl ⟨len, hruns, h⟩)))
    · exact .inr (.inr (.inr (.inr (.inl ⟨hruns, h⟩))))
  · exact .inl rfl
  · exact .inl rfl
  · obtain hkept | ⟨rfl, h⟩ := inputStep_phase_cases a rest s
    · exact .inl hkept
    · exact .inr (.inr (.inr (.inr (.inr ⟨⟨hturn, rest, hinputs⟩, h⟩))))

end

/-- Settles O47: of the ways a step writes PHASE, IV_SETUP starts in KEY_DONE and CRYPT ends in
STREAMING. -/
theorem streamingIsLeftOnlyByKeySetupZeroizeReset :
    Obligations.StreamingIsLeftOnlyByKeySetupZeroizeReset := by
  intro s t hstep hstreaming hleft
  obtain hkept | hkeySetup | ⟨_, _, hkeyDone, _⟩ | ⟨_, _, _, hcrypt⟩ | hzeroize | hreset :=
    step_phase_cases hstep
  · exact absurd (hkept.trans hstreaming) hleft
  · exact .inl hkeySetup
  · simp [hstreaming] at hkeyDone
  · exact absurd hcrypt hleft
  · exact .inr (.inl hzeroize)
  · exact .inr (.inr hreset)

end Sys2Proof.Machine
end

section
/-! Exceptions: the result code of an ILLEGAL word (R243) and of each decoded command (R240 to R242). -/

namespace Sys2Proof.Machine

/-! ## ILLEGAL words -/

/-- Settles O22: each of the statement's conditions makes DECODE answer ILLEGAL, and the engine step of an
ILLEGAL word is `step_cases`' second outcome. -/
theorem illegalWordReportsIllegalCommand : Obligations.IllegalWordReportsIllegalCommand := by
  intro s hturn hword
  obtain ⟨why, hdecode⟩ : ∃ why, decode s.pending = .illegal why := by
    rw [decode_illegal_iff]
    rcases hword with hres1 | hres0 | hop | hlen | hcrypt
    · exact .inl fun hzero => hres1 hzero.1
    · exact .inl fun hzero => hres0 hzero.2
    · exact .inr (.inr (.inr hop))
    · exact .inr (.inl hlen)
    · exact .inr (.inr (.inl hcrypt))
  exact step_cases.2 (.inr (.inl ⟨why, hturn, hdecode, rfl⟩))

/-! ## Decoded commands -/

/-- R147, R241: the lengths KEY_SETUP refuses. -/
theorem keyLengthOk_eq_false_iff (len : Nat) : keyLengthOk len = false ↔ len = 0 ∨ 16 < len := by
  rw [Bool.eq_false_iff, Ne, keyLengthOk_iff]
  omega

/-- R165, R242: a length outside 1 to 8 is refused under either policy, and the exact one refuses more. -/
theorem ivLength_refused_iff (exact8 : Bool) (len : Nat) :
    ivLengthOk exact8 len = false ↔ len = 0 ∨ 8 < len ∨ (exact8 = true ∧ len ≠ 8) := by
  rw [ivLengthOk_eq_false_iff]
  cases exact8 with
  | false => simp
  | true =>
    simp only [reduceCtorEq, false_and, false_or, true_and]
    omega

/-- R165: the lengths IV_SETUP accepts. -/
theorem ivLengthOk_iff (exact8 : Bool) (len : Nat) :
    ivLengthOk exact8 len = true ↔ 1 ≤ len ∧ len ≤ 8 ∧ (exact8 = true → len = 8) := by
  rw [← Bool.not_eq_false, ivLength_refused_iff]
  simp only [not_or, not_and, not_not, not_lt, Nat.one_le_iff_ne_zero]

/-- R219: the phases in which CRYPT is a sequence error. -/
theorem keystreamPhase_eq_false_iff (p : Phase) :
    keystreamPhase p = false ↔ p = .uninit ∨ p = .keyDone := by
  cases p <;> decide

/-- Settles O51: in each outcome of each command the code is a literal, and the outcome's checks are the
statement's conditions. -/
theorem errorCodeTellsTheFirstFailedCheck : Obligations.ErrorCodeTellsTheFirstFailedCheck := by
  intro i s hwf
  obtain ⟨t, hexec⟩ := exec_answers_next i s
  refine ⟨t, hexec, ?_⟩
  cases i with
  | nop =>
    obtain rfl := execNop_next.1 hexec
    simp
  | keySetup len =>
    obtain ⟨hlen, rfl⟩ | ⟨hlen, rfl⟩ := execKeySetup_next.1 hexec
    · simp [← keyLengthOk_eq_false_iff, hlen]
    · simp [← keyLengthOk_eq_false_iff, hlen]
  | ivSetup len =>
    have hrefused := ivLength_refused_iff s.ctrlIvExact8 len
    have haccepted := ivLengthOk_iff s.ctrlIvExact8 len
    obtain ⟨hlen, hphase, rfl⟩ | ⟨hlen, hphase, rfl⟩ | ⟨hlen, rfl⟩ := execIvSetup_next.1 hexec
    · simp [← hrefused, hlen, hphase]
    · simpa [← hrefused, hlen, hphase] using haccepted.1 hlen
    · simpa [← hrefused, hlen] using fun hpos hle hexact =>
        absurd (haccepted.2 ⟨hpos, hle, hexact⟩) (by simp [hlen])
  | crypt len =>
    have hle : len ≤ 16 := of_decide_eq_true hwf
    obtain ⟨hlong, rfl⟩ | ⟨_, hphase, rfl⟩ | ⟨_, _, hphase, rfl⟩ | ⟨_, hphase, rfl⟩ :=
      execCrypt_next.1 hexec
    · omega
    · simp [← keystreamPhase_eq_false_iff, hphase]
    · simp [← keystreamPhase_eq_false_iff, hphase]
    · simp [← keystreamPhase_eq_false_iff, hphase]
  | zeroize =>
    obtain rfl := execZeroize_next.1 hexec
    simp

end Sys2Proof.Machine
end

section
/-! Reset (R270): where the reset input leads, and what the registers read there. -/

namespace Sys2Proof.Machine

/-! ## The reset input -/

section
variable {s t : State}

/-- R270: a step that takes the reset input is `resetInput`, whether or not a command is running. -/
theorem step_of_takes_reset (h : s.takes .reset) :
    ∃ rest, step s = .next (resetInput { s with inputs := rest }) := by
  obtain ⟨hturn, rest, hinputs⟩ := h
  exact ⟨rest, step_cases.2 (.inr (.inr (.inr ⟨.reset, rest, hturn, hinputs, rfl⟩)))⟩

/-- R270: the reset input leaves nothing of the engine's earlier state. -/
theorem toEngine_of_takes_reset (h : s.takes .reset) (hstep : step s = .next t) :
    t.toEngine = Engine.reset := by
  obtain ⟨rest, hreset⟩ := step_of_takes_reset h
  obtain rfl := Host.Outcome.next.inj (hreset.symm.trans hstep)
  exact resetInput_toEngine _

end

/-! ## The registers read after reset -/

section
variable (s : State)

theorem busReadValue_id : busReadValue 0x00 .bits32 s = 0x52414242 := rfl

theorem busReadValue_ctrl : busReadValue 0x04 .bits32 s = ctrlWord s.toEngine := rfl

theorem busReadValue_status : busReadValue 0x08 .bits32 s = statusWord s.toEngine := rfl

end

theorem ctrlWord_reset : ctrlWord Engine.reset = 0 := by decide

theorem statusWord_reset : statusWord Engine.reset = 0 := by decide

/-- Settles O57: at power-on and after the reset input the engine is `Engine.reset`, whose fields are the
table's values and whose CTRL and STATUS words are 0. -/
theorem resetGivesEveryRegisterItsValue : Obligations.ResetGivesEveryRegisterItsValue := by
  refine ⟨fun s hs => ?_, fun s htakes => ?_⟩
  · have hengine : s.toEngine = Engine.reset := by
      obtain rfl | ⟨s0, htakes, hstep⟩ := hs
      · rfl
      · exact toEngine_of_takes_reset htakes hstep
    rw [busReadValue_ctrl, busReadValue_status, busReadValue_id, hengine, ctrlWord_reset,
      statusWord_reset]
    and_intros <;> rfl
  · obtain ⟨_, hstep⟩ := step_of_takes_reset htakes
    exact ⟨_, hstep⟩

end Sys2Proof.Machine
end

section
/-! The command codec as a whole (R80 to R88): the round trip in both directions, the example words, and the
words the pseudo-instructions write (R90). -/

namespace Sys2Proof.Machine

/-! ## Round trip -/

/-- R80 to R83: the fields of a well-formed command's word. -/
theorem encode_fields (i : Instr) : Laws.EncodingFields.Statement i := by
  cases i with
  | nop => exact Laws.EncodingFields.nop
  | keySetup len => exact Laws.EncodingFields.keySetup len
  | ivSetup len => exact Laws.EncodingFields.ivSetup len
  | crypt len => exact Laws.EncodingFields.crypt len
  | zeroize => exact Laws.EncodingFields.zeroize

theorem decodesTo_encode {i : Instr} (hwf : i.wf = true) : DecodesTo (encode i) (.command i) := by
  obtain ⟨hop, hlen, hres0, hres1⟩ := encode_fields i hwf
  exact ⟨(reservedZero_iff _).2 ⟨hres1, hres0⟩, hop, hlen, hwf⟩

/-- Settles O4: the encoder fills the fields from which DECODE reads the command. -/
theorem encodedCommandDecodes : Obligations.EncodedCommandDecodes :=
  fun _ hwf => (decode_eq_iff _ _).2 (decodesTo_encode hwf)

/-- Settles O5: the word and the encoder's word have the same four fields. -/
theorem decodedWordIsTheOnlyEncoding : Obligations.DecodedWordIsTheOnlyEncoding := by
  intro w i hdecode
  obtain ⟨hzero, hop, hlen, hwf⟩ := (decode_eq_iff _ _).1 hdecode
  obtain ⟨hres1, hres0⟩ := (reservedZero_iff w).1 hzero
  obtain ⟨hop', hlen', hres0', hres1'⟩ := encode_fields i hwf
  refine ⟨hwf, (eq_iff_fields_eq _ _).2 ⟨⟨?_, ?_⟩, ?_, ?_⟩⟩
  · rw [hres1', hres1]
  · rw [hres0', hres0]
  · rw [hop', hop]
  · rw [hlen', hlen]

/-! ## Words of the spec and of host programs -/

/-- Settles O8: ten closed words. -/
theorem exampleWordsDecode : Obligations.ExampleWordsDecode := by
  unfold Obligations.ExampleWordsDecode
  decide

/-- Settles O9: the word each line writes is the encoder's word of its command, and the line's range is
within the command's. -/
theorem pseudoInstructionsIssueTheirCommand : Obligations.PseudoInstructionsIssueTheirCommand := by
  refine ⟨fun n hwf => ?_, fun n hwf => ?_, fun n hwf => ?_, ?_, ?_⟩
  · have hrange : 1 ≤ n ∧ n ≤ 31 := of_decide_eq_true hwf
    have hlen : n < 32 := by omega
    exact ⟨encode (.keySetup n), rfl, encodedCommandDecodes _ (decide_eq_true hlen)⟩
  · exact ⟨encode (.ivSetup n), rfl, encodedCommandDecodes (.ivSetup n) hwf⟩
  · exact ⟨encode (.crypt n), rfl, encodedCommandDecodes (.crypt n) hwf⟩
  · exact ⟨encode .nop, rfl, encodedCommandDecodes _ rfl⟩
  · exact ⟨encode .zeroize, rfl, encodedCommandDecodes _ rfl⟩

end Sys2Proof.Machine
end

section
/-! What each command writes and what it leaves (10_state.md section 4), the inverse CRYPT (R220), and the
two transition orders (R191). -/

namespace Sys2Proof.Machine

/-! ## The outcomes of a command -/

section
variable {i : Instr} {s t : State}

/-- Everything a command can do: write ERR alone, or succeed as KEY_SETUP, IV_SETUP, CRYPT or ZEROIZE. -/
theorem exec_cases (h : exec i s = .next t) :
    (∃ code, t = { s with err := code })
    ∨ (∃ len, i = .keySetup len ∧ t =
        { s with
          orderL := s.ctrlOrder
          cipher := keySchedule s.ctrlOrder (keyWords s.key len)
          phase := .keyDone
          err := .noError })
    ∨ (∃ len, i = .ivSetup len ∧ t =
        { s with
          cipher := ivSchedule s.orderL (ivWords s.iv len) s.cipher
          phase := .keyed
          err := .noError })
    ∨ (i = .crypt 0 ∧ t = { s with phase := .streaming, err := .noError })
    ∨ (∃ len, 0 < len ∧ i = .crypt len
        ∧ t = { cryptBlock len s with phase := .streaming, err := .noError })
    ∨ (i = .zeroize ∧ t = { cleared s with err := .noError }) := by
  cases i with
  | nop => exact .inl ⟨_, execNop_next.1 h⟩
  | keySetup len =>
    obtain ⟨_, ht⟩ | ⟨_, ht⟩ := execKeySetup_next.1 h
    · exact .inr (.inl ⟨len, rfl, ht⟩)
    · exact .inl ⟨_, ht⟩
  | ivSetup len =>
    obtain ⟨_, _, ht⟩ | ⟨_, _, ht⟩ | ⟨_, ht⟩ := execIvSetup_next.1 h
    · exact .inr (.inr (.inl ⟨len, rfl, ht⟩))
    · exact .inl ⟨_, ht⟩
    · exact .inl ⟨_, ht⟩
  | crypt len =>
    obtain ⟨_, ht⟩ | ⟨rfl, _, ht⟩ | ⟨hpos, _, _, ht⟩ | ⟨_, _, ht⟩ := execCrypt_next.1 h
    · exact .inl ⟨_, ht⟩
    · exact .inr (.inr (.inr (.inl ⟨rfl, ht⟩)))
    · exact .inr (.inr (.inr (.inr (.inl ⟨len, hpos, rfl, ht⟩))))
    · exact .inl ⟨_, ht⟩
  | zeroize => exact .inr (.inr (.inr (.inr (.inr ⟨rfl, execZeroize_next.1 h⟩))))

/-- The registers a command other than ZEROIZE can write; the rest is its frame. -/
theorem exec_frame (hi : i ≠ .zeroize) (h : exec i s = .next t) :
    t = { s with
      cipher := t.cipher, orderL := t.orderL, phase := t.phase, dout := t.dout, err := t.err } := by
  obtain ⟨_, rfl⟩ | ⟨_, _, rfl⟩ | ⟨_, _, rfl⟩ | ⟨_, rfl⟩ | ⟨_, _, _, rfl⟩ | ⟨hzeroize, _⟩ :=
    exec_cases h
  · rfl
  · rfl
  · rfl
  · rfl
  · rfl
  · exact absurd hzeroize hi

/-- No command writes the host's inputs. -/
theorem exec_keeps_inputs (h : exec i s = .next t) : t.inputs = s.inputs := by
  by_cases hi : i = .zeroize
  · subst hi
    obtain rfl := execZeroize_next.1 h
    rfl
  · rw [exec_frame hi h]

end

/-- Settles O55: the frame shared by the four commands, and the registers each of them leaves alone. -/
theorem commandsKeepWhatTheyDoNotWrite : Obligations.CommandsKeepWhatTheyDoNotWrite := by
  intro i s t hi hexec
  obtain ⟨_, rfl⟩ | ⟨len, rfl, rfl⟩ | ⟨len, rfl, rfl⟩ | ⟨rfl, rfl⟩ | ⟨len, hpos, rfl, rfl⟩
    | ⟨hzeroize, _⟩ := exec_cases hexec
  · simp
  · simp
  · simp
  · simp
  · simp [hpos.ne']
  · exact absurd hzeroize hi

/-- Settles O56: the checks and the results of these commands do not read CTRL.ORDER. -/
theorem ctrlOrderMattersOnlyToKeySetup : Obligations.CtrlOrderMattersOnlyToKeySetup := by
  intro i s t o hi hexec
  cases i with
  | nop =>
    obtain rfl := execNop_next.1 hexec
    exact execNop_next.2 rfl
  | keySetup len => exact absurd rfl (hi len)
  | ivSetup len =>
    refine execIvSetup_next.2 ?_
    obtain ⟨hlen, hphase, rfl⟩ | ⟨hlen, hphase, rfl⟩ | ⟨hlen, rfl⟩ := execIvSetup_next.1 hexec
    · exact .inl ⟨hlen, hphase, rfl⟩
    · exact .inr (.inl ⟨hlen, hphase, rfl⟩)
    · exact .inr (.inr ⟨hlen, rfl⟩)
  | crypt len =>
    refine execCrypt_next.2 ?_
    obtain ⟨hlen, rfl⟩ | ⟨hlen, hphase, rfl⟩ | ⟨hpos, hlen, hphase, rfl⟩ | ⟨hlen, hphase, rfl⟩ :=
      execCrypt_next.1 hexec
    · exact .inl ⟨hlen, rfl⟩
    · exact .inr (.inl ⟨hlen, hphase, rfl⟩)
    · exact .inr (.inr (.inl ⟨hpos, hlen, hphase, rfl⟩))
    · exact .inr (.inr (.inr ⟨hlen, hphase, rfl⟩))
  | zeroize =>
    obtain rfl := execZeroize_next.1 hexec
    exact execZeroize_next.2 rfl

/-! ## CRYPT undone by CRYPT -/

/-- R220: the same keystream, applied twice, gives back the bytes below LEN. -/
theorem bufferByte_cryptOutput_cryptOutput (din ks : Quad) {len : Nat} {j : Fin 16} (hj : j.val < len) :
    bufferByte (cryptOutput (cryptOutput din ks len) ks len) j = bufferByte din j := by
  rw [bufferByte_cryptOutput, if_pos hj, bufferByte_cryptOutput, if_pos hj, BitVec.xor_assoc,
    BitVec.xor_self, BitVec.xor_zero]

/-- Settles O49: both runs make the same transition, so both use the same keystream. -/
theorem cryptTwiceRestoresTheInput : Obligations.CryptTwiceRestoresTheInput := by
  intro len s s' hpos hle hphase hphase' hcipher horder
  refine ⟨_, _, exec_crypt_of_pos hphase hpos hle, exec_crypt_of_pos hphase' hpos hle, ?_,
    fun j hj => ?_⟩
  · simp only [cryptBlock_cipher, hcipher, horder]
  · simp only [cryptBlock_dout, hcipher, horder]
    exact bufferByte_cryptOutput_cryptOutput _ _ hj

/-! ## The transition orders -/

/-- Settles O42: the definitions of the two transitions, with `mix` written out. -/
theorem transitionOrdersDifferOnlyInTheMix : Obligations.TransitionOrdersDifferOnlyInTheMix :=
  fun _ => ⟨rfl, rfl⟩

end Sys2Proof.Machine
end

section
/-! What one step can do, case by case: the engine's step (R105), the host's input (R59, R60), and what each
register is changed by (10_state.md). -/

namespace Sys2Proof.Machine

/-! ## Whose turn it is -/

/-- R105, R106: with BUSY = 1 the engine has the turn when the latency has run out or no input is left. -/
theorem engineTurn_iff (s : State) :
    engineTurn s = true ↔ s.busy = true ∧ (s.engineWait = 0 ∨ s.inputs = []) := by
  simp [engineTurn]

section
variable {i : Instr} {s t : State}

theorem engineTurn_of_idle (hidle : s.busy = false) : engineTurn s = false := by
  simp [engineTurn, hidle]

theorem step_of_runs (hruns : s.runs i) (hexec : exec i s = .next t) :
    step s = .next (complete t) :=
  step_cases.2 (.inl ⟨i, t, hruns, hexec, rfl⟩)

theorem step_of_no_input (hturn : engineTurn s = false) (hinputs : s.inputs = []) :
    step s = .next s :=
  step_cases.2 (.inr (.inr (.inl ⟨hturn, hinputs, rfl⟩)))

theorem step_of_input {a : Input} {rest : List Input} (hturn : engineTurn s = false)
    (hinputs : s.inputs = a :: rest) : step s = .next (inputStep a rest s) :=
  step_cases.2 (.inr (.inr (.inr ⟨a, rest, hturn, hinputs, rfl⟩)))

end

/-- Settles O20: `complete` is BUSY <- 0. -/
theorem engineStepRunsTheDecodedCommand : Obligations.EngineStepRunsTheDecodedCommand :=
  ⟨fun _ _ _ => step_of_runs, engineTurn_iff⟩

/-- A 32-bit word read as a table row of 32 bits is that word. -/
theorem commandWord_toNat (w : Word) : commandWord 32 w.toNat = w := by
  rw [commandWord, Nat.mod_eq_of_lt w.isLt, BitVec.ofNat_toNat, BitVec.setWidth_eq]

/-- Settles O21: the placed command has the turn, since its latency is 0. -/
theorem placedCommandRunsNext : Obligations.PlacedCommandRunsNext := by
  intro s w i hdecode
  have hplaced : s.withFetchWord 32 w.toNat = placeCommand w s := by
    rw [State.withFetchWord, commandWord_toNat]
  have hruns : (placeCommand w s).runs i := ⟨(engineTurn_iff _).2 ⟨rfl, .inl rfl⟩, hdecode⟩
  exact ⟨_, rfl, hplaced, fun t hexec => hplaced ▸ step_of_runs hruns hexec⟩

/-- Settles O29: ZEROIZE's one outcome, completed. -/
theorem zeroizeStepLeavesResetStateButCtrl : Obligations.ZeroizeStepLeavesResetStateButCtrl :=
  fun _ hruns => ⟨_, step_of_runs hruns (execZeroize_next.2 rfl), rfl⟩

/-- Settles O23: each input's `inputStep`, with `countAccess` before it for all but reset. -/
theorem hostStepIsItsNextInput : Obligations.HostStepIsItsNextInput := by
  intro s hturn
  refine ⟨step_of_no_input hturn, fun _ _ _ _ => step_of_input hturn, fun _ _ _ => step_of_input hturn,
    fun rest hinputs => ?_, fun _ => step_of_input hturn⟩
  rw [step_of_input hturn hinputs, inputStep, pollStatus_eq]
  by_cases hbusy : s.busy = true
  · simp [countAccess, hbusy]
  · simp [countAccess, hbusy]

/-- Settles O24: every command ends in a next state, and a host's input always leads to one. -/
theorem everyStepAnswersNext : Obligations.EveryStepAnswersNext := by
  intro s
  cases hturn : engineTurn s with
  | true =>
    cases hdecode : decode s.pending with
    | command i =>
      obtain ⟨t, hexec⟩ := exec_answers_next i s
      exact ⟨_, step_of_runs ⟨hturn, hdecode⟩ hexec⟩
    | illegal why => exact ⟨_, step_cases.2 (.inr (.inl ⟨why, hturn, hdecode, rfl⟩))⟩
  | false =>
    cases hinputs : s.inputs with
    | nil => exact ⟨_, step_of_no_input hturn hinputs⟩
    | cons a rest => exact ⟨_, step_of_input hturn hinputs⟩

/-! ## What a register write changes -/

section
variable (r : Reg) (v : Word) (s : State)

/-- R101: no host write reaches the cipher state, ORDER_L, PHASE, DOUT or the inputs still to come. -/
theorem writeReg_frame :
    (writeReg r v s).cipher = s.cipher ∧ (writeReg r v s).orderL = s.orderL
    ∧ (writeReg r v s).phase = s.phase ∧ (writeReg r v s).dout = s.dout
    ∧ (writeReg r v s).inputs = s.inputs := by
  cases r with
  | status => simp [writeReg, writeStatus_eq]
  | _ => simp [writeReg]

/-- R101: each input register is written by a write to it alone. -/
theorem writeReg_changes :
    ((writeReg r v s).key ≠ s.key → ∃ j, r = .key j)
    ∧ ((writeReg r v s).iv ≠ s.iv → ∃ j, r = .iv j)
    ∧ ((writeReg r v s).din ≠ s.din → ∃ j, r = .din j)
    ∧ ((writeReg r v s).ctrlOrder ≠ s.ctrlOrder ∨ (writeReg r v s).ctrlIvExact8 ≠ s.ctrlIvExact8
      → r = .ctrl) := by
  cases r with
  | status => simp [writeReg, writeStatus_eq]
  | _ => simp [writeReg]

end

/-! ## What a step does to the engine -/

section
variable {s t : State}

/-- While BUSY = 1 an input other than reset writes BUSYERR at most, counts as one access, and is taken from
the list unless it is the poll. -/
theorem inputStep_of_busy {a : Input} (rest : List Input) (hbusy : s.busy = true) (ha : a ≠ .reset) :
    (inputStep a rest s).toEngine = { s.toEngine with busyErr := (inputStep a rest s).busyErr }
    ∧ (inputStep a rest s).engineWait = s.engineWait - 1
    ∧ ((inputStep a rest s).inputs = s.inputs ∨ (inputStep a rest s).inputs = rest) := by
  rcases inputStep_cases a rest s with
    ⟨hreset, _⟩ | ⟨_, _, _, _, _, _, h⟩ | ⟨_, _, _, _, _, hidle, _⟩ | ⟨hengine, hwait, hinputs⟩
  · exact absurd hreset ha
  · rw [h]
    exact ⟨rfl, rfl, .inr rfl⟩
  · simp [hbusy] at hidle
  · exact ⟨by rw [hengine], hwait, hinputs.imp_left fun ⟨_, _, hkept⟩ => hkept⟩

/-- Everything a step can do to the engine's registers: run a command, take reset, write a register while
BUSY = 0, or write ERR, BUSY and BUSYERR at most. -/
theorem step_engine_cases (hstep : step s = .next t) :
    (∃ i t0, s.runs i ∧ exec i s = .next t0 ∧ t = complete t0)
    ∨ (s.takes .reset ∧ t.toEngine = Engine.reset)
    ∨ (∃ r v u, s.busy = false ∧ s.takes (.write (regOffset r) .bits32 v)
        ∧ u.toEngine = s.toEngine ∧ t = writeReg r v u)
    ∨ (∃ err busy busyErr,
        t.toEngine = { s.toEngine with err := err, busy := busy, busyErr := busyErr }) := by
  rcases step_cases.1 hstep with hruns | ⟨_, _, _, rfl⟩ | ⟨_, _, rfl⟩ | ⟨a, rest, hturn, hinputs, rfl⟩
  · exact .inl hruns
  · exact .inr (.inr (.inr ⟨_, _, _, rfl⟩))
  · exact .inr (.inr (.inr ⟨_, _, _, rfl⟩))
  · rcases inputStep_cases a rest s with
      ⟨rfl, h⟩ | ⟨_, _, _, _, _, _, h⟩ | ⟨off, v, r, rfl, hoff, hidle, h⟩ | ⟨hengine, _⟩
    · exact .inr (.inl ⟨⟨hturn, rest, hinputs⟩, by rw [h]; rfl⟩)
    · exact .inr (.inr (.inr ⟨_, _, _, by rw [h]; rfl⟩))
    · refine .inr (.inr (.inl ⟨r, v, countAccess { s with inputs := rest }, hidle, ?_, rfl, h⟩))
      rw [regOffset_of_regAtOffset hoff]
      exact ⟨hturn, rest, hinputs⟩
    · exact .inr (.inr (.inr ⟨_, _, _, hengine⟩))

end

/-- Settles O19: the step is the host's, and `inputStep_of_busy` is what its input can do. -/
theorem hostAccessWhileBusyKeepsTheEngine : Obligations.HostAccessWhileBusyKeepsTheEngine := by
  intro s t hbusy hturn hreset hstep
  cases hinputs : s.inputs with
  | nil =>
    obtain rfl := Host.Outcome.next.inj ((step_of_no_input hturn hinputs).symm.trans hstep)
    rfl
  | cons a rest =>
    obtain rfl := Host.Outcome.next.inj ((step_of_input hturn hinputs).symm.trans hstep)
    have ha : a ≠ .reset := fun h => hreset ⟨hturn, rest, h ▸ hinputs⟩
    exact (inputStep_of_busy rest hbusy ha).1

/-! ## BUSYERR -/

section
variable {s t : State}

/-- R101, R115: a host write to STATUS can only clear BUSYERR, and no other idle write reaches it. -/
theorem writeReg_keeps_busyErr_clear {r : Reg} {v : Word} (hclear : s.busyErr = false) :
    (writeReg r v s).busyErr = false := by
  by_cases hr : r = .status
  · subst hr
    simp [writeReg, writeStatus_eq, hclear]
  · rw [writeReg_keeps_busyErr hr, hclear]

theorem exec_keeps_busyErr_clear {i : Instr} (hclear : s.busyErr = false) (h : exec i s = .next t) :
    t.busyErr = false := by
  by_cases hi : i = .zeroize
  · subst hi
    obtain rfl := execZeroize_next.1 h
    rfl
  · rw [exec_keeps_busyErr hi h, hclear]

end

/-- Settles O17: of a step's outcomes only the dropped write leaves BUSYERR at 1 where it was 0. -/
theorem busyErrSetOnlyByDroppedWrite : Obligations.BusyErrSetOnlyByDroppedWrite := by
  intro s t hstep hclear hset
  rcases step_cases.1 hstep with
    ⟨i, t0, _, hexec, rfl⟩ | ⟨_, _, _, rfl⟩ | ⟨_, _, rfl⟩ | ⟨a, rest, hturn, hinputs, rfl⟩
  · simp [exec_keeps_busyErr_clear hclear hexec] at hset
  · simp [hclear] at hset
  · simp [hclear] at hset
  · rcases inputStep_cases a rest s with
      ⟨_, h⟩ | ⟨off, v, r, rfl, hoff, hbusy, _⟩ | ⟨_, _, _, _, _, _, h⟩ | ⟨hengine, _⟩
    · simp [h, Engine.reset] at hset
    · have hmapped : mappedOffset off := (regAtOffset_eq_none_iff off).not_left.1 (by simp [hoff])
      exact ⟨hbusy, off, v, ⟨hturn, rest, hinputs⟩, hmapped⟩
    · have hkept : (countAccess { s with inputs := rest }).busyErr = false := hclear
      simp [h, writeReg_keeps_busyErr_clear hkept] at hset
    · simp [hengine, hclear] at hset

/-! ## Who writes which register -/

/-- Settles O52: `step_phase_cases`, with the cases that keep PHASE left out. -/
theorem phasesAreEnteredInOrder : Obligations.PhasesAreEnteredInOrder := by
  intro s t hstep hne
  obtain hkept | ⟨len, hruns, ht⟩ | ⟨len, hruns, hs, ht⟩ | ⟨len, hruns, hs, ht⟩ | ⟨hruns, ht⟩
    | ⟨htakes, ht⟩ := step_phase_cases hstep
  · exact absurd hkept hne
  · simpa [ht] using ⟨len, hruns⟩
  · simpa [ht, hs] using ⟨len, hruns⟩
  · have hkeyed : s.phase = .keyed := hs.resolve_right fun h => hne (ht.trans h.symm)
    simpa [ht, hkeyed] using ⟨len, hruns⟩
  · simp [ht, hruns]
  · simp [ht, htakes]

/-- Settles O53: the commands but ZEROIZE have these registers in their frame, and each is written by its
own host write alone. -/
theorem inputRegistersChangeOnlyByTheirWriters : Obligations.InputRegistersChangeOnlyByTheirWriters := by
  intro s t hstep
  obtain ⟨i, t0, hruns, hexec, rfl⟩ | ⟨htakes, _⟩ | ⟨r, v, u, hidle, htakes, hu, rfl⟩ | ⟨_, _, _, ht⟩ :=
    step_engine_cases hstep
  · by_cases hi : i = .zeroize
    · subst hi
      obtain rfl := execZeroize_next.1 hexec
      simp [hruns]
    · rw [exec_frame hi hexec]
      simp
  · simp [htakes]
  · obtain ⟨hkey, hiv, hdin, hctrl⟩ := writeReg_changes r v u
    rw [hu] at hkey hiv hdin hctrl
    refine ⟨fun h => ?_, fun h => ?_, fun h => ?_, fun h => ?_⟩
    · obtain ⟨j, rfl⟩ := hkey h
      exact .inr (.inr ⟨hidle, j, v, htakes⟩)
    · obtain ⟨j, rfl⟩ := hiv h
      exact .inr (.inr ⟨hidle, j, v, htakes⟩)
    · obtain ⟨j, rfl⟩ := hdin h
      exact .inr (.inr ⟨hidle, j, v, htakes⟩)
    · obtain rfl := hctrl h
      exact .inr ⟨hidle, v, htakes⟩
  · simp [ht]

/-- Settles O54: the outcomes of each command, and no host write reaches these registers. -/
theorem cipherStateChangesOnlyByItsCommands : Obligations.CipherStateChangesOnlyByItsCommands := by
  intro s t hstep
  obtain ⟨i, t0, hruns, hexec, rfl⟩ | ⟨htakes, _⟩ | ⟨r, v, u, _, _, hu, rfl⟩ | ⟨_, _, _, ht⟩ :=
    step_engine_cases hstep
  · obtain ⟨_, rfl⟩ | ⟨len, rfl, rfl⟩ | ⟨len, rfl, rfl⟩ | ⟨_, rfl⟩ | ⟨len, hpos, rfl, rfl⟩ | ⟨rfl, _⟩ :=
      exec_cases hexec
    · simp
    · have hkeySetup : ∃ len, s.runs (.keySetup len) := ⟨len, hruns⟩
      simp [hkeySetup]
    · have hivSetup : ∃ len, s.runs (.ivSetup len) := ⟨len, hruns⟩
      simp [hivSetup]
    · simp
    · have hcrypt : ∃ len, 0 < len ∧ s.runs (.crypt len) := ⟨len, hpos, hruns⟩
      simp [hcrypt]
    · simp [hruns]
  · simp [htakes]
  · obtain ⟨hcipher, horder, _, hdout, _⟩ := writeReg_frame r v u
    simp [hcipher, horder, hdout, hu]
  · simp [ht]

/-! ## The invariant of phase UNINIT -/

section
variable {s t : State}

/-- The invariant reads four registers. -/
theorem inv_congr (hphase : t.phase = s.phase) (hcipher : t.cipher = s.cipher)
    (horder : t.orderL = s.orderL) (hdout : t.dout = s.dout) (h : s.Inv) : t.Inv := by
  rwa [State.Inv, hphase, hcipher, horder, hdout]

/-- Outside UNINIT there is nothing to show. -/
theorem inv_of_phase_ne (h : t.phase ≠ .uninit) : t.Inv := fun huninit => absurd huninit h

/-- R27: a command that writes one of these registers leaves UNINIT, or is ZEROIZE and clears them. -/
theorem exec_keeps_inv {i : Instr} (h : s.Inv) (hexec : exec i s = .next t) : t.Inv := by
  obtain ⟨_, rfl⟩ | ⟨_, _, rfl⟩ | ⟨_, _, rfl⟩ | ⟨_, rfl⟩ | ⟨_, _, _, rfl⟩ | ⟨_, rfl⟩ := exec_cases hexec
  · exact inv_congr rfl rfl rfl rfl h
  · exact inv_of_phase_ne Phase.noConfusion
  · exact inv_of_phase_ne Phase.noConfusion
  · exact inv_of_phase_ne Phase.noConfusion
  · exact inv_of_phase_ne Phase.noConfusion
  · exact fun _ => ⟨rfl, rfl, rfl⟩

theorem inv_of_toEngine_reset (h : t.toEngine = Engine.reset) : t.Inv := by
  rw [State.Inv, h]
  exact fun _ => ⟨rfl, rfl, rfl⟩

end

/-- Settles O58: the reset values are the invariant's. -/
theorem uninitIsEmptyAtReset : Obligations.UninitIsEmptyAtReset := inv_of_toEngine_reset rfl

/-- Settles O59: commands keep the invariant, reset establishes it, and no host write reaches the registers
it reads. -/
theorem everyStepKeepsUninitEmpty : Obligations.EveryStepKeepsUninitEmpty := by
  intro s t h hstep
  obtain ⟨i, t0, _, hexec, rfl⟩ | ⟨_, ht⟩ | ⟨r, v, u, _, _, hu, rfl⟩ | ⟨_, _, _, ht⟩ :=
    step_engine_cases hstep
  · have ht0 : t0.Inv := exec_keeps_inv h hexec
    exact inv_congr rfl rfl rfl rfl ht0
  · exact inv_of_toEngine_reset ht
  · obtain ⟨hcipher, horder, hphase, hdout, _⟩ := writeReg_frame r v u
    rw [hu] at hcipher horder hphase hdout
    exact inv_congr hphase hcipher horder hdout h
  · exact inv_congr (by rw [ht]) (by rw [ht]) (by rw [ht]) (by rw [ht]) h

end Sys2Proof.Machine
end

section
/-! Reads and the register window: each register's offset (R51), what each read returns (R100), and what no
read shows. -/

namespace Sys2Proof.Machine

/-! ## The window -/

/-- R51: the two maps between registers and offsets are inverse. -/
theorem regAtOffset_eq_some_iff (off : Offset) (r : Reg) :
    regAtOffset off = some r ↔ regOffset r = off :=
  ⟨regOffset_of_regAtOffset, fun h => h ▸ regAtOffset_regOffset r⟩

/-- Settles O10: the inverse maps, R51's table entry by entry, and the offsets that are not mapped. -/
theorem windowHoldsEachRegisterAtItsOffset : Obligations.WindowHoldsEachRegisterAtItsOffset :=
  ⟨regAtOffset_eq_some_iff, rfl, rfl, rfl, rfl, by decide, by decide, by decide, by decide,
    regAtOffset_eq_none_iff⟩

/-! ## The words of STATUS and CTRL as numbers -/

/-- Settles O12: eleven literals. -/
theorem statusCodesAreTheSpecs : Obligations.StatusCodesAreTheSpecs := by
  unfold Obligations.StatusCodesAreTheSpecs
  decide

/-- Fields put side by side are digits of one number. -/
theorem toNat_append_eq_add {m n : Nat} (x : BitVec m) (y : BitVec n) :
    (x ++ y).toNat = x.toNat * 2 ^ n + y.toNat := by
  rw [BitVec.toNat_append, ← Nat.shiftLeft_add_eq_or_of_lt y.isLt, Nat.shiftLeft_eq]

theorem toNat_bit (o : TransOrder) : o.bit.toNat = if o = .legacy then 1 else 0 := by
  cases o <;> rfl

/-- R34, R100: ORDER is bit 0 of CTRL and IV_EXACT8 bit 1. -/
theorem ctrlWord_toNat (e : Engine) :
    (ctrlWord e).toNat = e.ctrlOrder.bit.toNat + 2 * e.ctrlIvExact8.toNat := by
  have horder := e.ctrlOrder.bit.toNat_le
  have hexact := e.ctrlIvExact8.toNat_le
  simp only [ctrlWord, BitVec.toNat_setWidth, toNat_append_eq_add, BitVec.toNat_ofBool]
  omega

/-- R35, R100: the fields of STATUS by their weights. -/
theorem statusWord_toNat (e : Engine) :
    (statusWord e).toNat = e.busy.toNat + 2 * e.busyErr.toNat + 4 * e.phase.code.toNat
      + 16 * e.err.code.toNat + 128 * e.orderL.bit.toNat := by
  have hbusy := e.busy.toNat_le
  have hbusyErr := e.busyErr.toNat_le
  have hphase := e.phase.code.isLt
  have herr := e.err.code.isLt
  have horder := e.orderL.bit.toNat_le
  simp only [statusWord, BitVec.toNat_setWidth, toNat_append_eq_add, BitVec.toNat_ofBool]
  omega

/-! ## What a read returns -/

section
variable (s : State)

theorem busReadValue_regOffset (r : Reg) : busReadValue (regOffset r) .bits32 s = readReg r s := by
  rw [busReadValue, accessReg_bits32, regAtOffset_regOffset]

/-- R100: a read takes a free value exactly where the register read draws one. -/
theorem busRead_regOffset_draws (r : Reg) : (busRead (regOffset r) .bits32 s).draws
    = if drawsOnRead r s = true then s.draws + 1 else s.draws := by
  have hdraws : readDraws (regOffset r) .bits32 s = drawsOnRead r s := by
    rw [readDraws, accessReg_bits32, regAtOffset_regOffset]
  simp only [busRead, hdraws]
  split <;> rfl

theorem readReg_dout_of_idle (j : Fin 4) (hidle : s.busy = false) :
    readReg (.dout j) s = s.dout.get j := by
  simp [readReg, hidle]

theorem readReg_dout_of_busy (j : Fin 4) (hbusy : s.busy = true) :
    readReg (.dout j) s = Config.doutWhileBusy s.draws := by
  simp [readReg, hbusy]

theorem busRead_reads (off : Offset) (width : Width) :
    (busRead off width s).reads = s.reads ++ [busReadValue off width s] := by
  rcases busRead_cases off width s with h | h <;> rw [h] <;> rfl

end

/-- Settles O11: a read at a register's offset is `readReg`, whose arms are the statement's clauses. -/
theorem busReadReturnsTheRegister : Obligations.BusReadReturnsTheRegister := by
  intro s
  have hreg := busReadValue_regOffset s
  refine ⟨busReadValue_id s, ?_, ?_, hreg .cmd, fun j => hreg (.key j), fun j => hreg (.iv j),
    fun j => hreg (.din j), fun j hidle => ?_, fun j hbusy => ⟨?_, ?_⟩, fun off width h => ?_,
    fun off width => ⟨busRead_toEngine off width s, busRead_reads s off width⟩⟩
  · rw [busReadValue_ctrl, ctrlWord_toNat, toNat_bit]
    cases s.ctrlIvExact8 <;> rfl
  · rw [busReadValue_status, statusWord_toNat, toNat_bit]
    cases s.busy <;> cases s.busyErr <;> simp
  · rw [hreg, readReg_dout_of_idle s j hidle]
  · rw [hreg, readReg_dout_of_busy s j hbusy]
  · rw [busRead_regOffset_draws]
    exact if_pos hbusy
  · exact busReadValue_of_accessReg_none s ((accessReg_eq_none_iff off width).2 h)

/-! ## What no read shows -/

/-- Settles O18: no arm of `readReg` reads another field than those the two states share. -/
theorem readsRevealNoHiddenState : Obligations.ReadsRevealNoHiddenState := by
  intro s t off width horder hphase hbusy hbusyErr herr hctrl hexact hdin hdout hdraws
  unfold busReadValue
  cases accessReg off width with
  | none => rfl
  | some r =>
    cases r with
    | id | cmd | key _ | iv _ => rfl
    | ctrl => simp [readReg, ctrlWord, hctrl, hexact]
    | status => simp [readReg, statusWord, horder, hphase, hbusy, hbusyErr, herr]
    | din j => simp [readReg, hdin]
    | dout j => simp [readReg, hbusy, hdout, hdraws]

end Sys2Proof.Machine
end

section
/-! Runs: an issued command gets its engine step (R106), and every run ends (R283). -/

namespace Sys2Proof.Machine

/-! ## The engine's turn comes -/

section
variable {s t : State}

theorem engineTurn_of_no_input (hbusy : s.busy = true) (hinputs : s.inputs = []) :
    engineTurn s = true :=
  (engineTurn_iff s).2 ⟨hbusy, .inr hinputs⟩

/-- With BUSY = 1 and no turn for the engine the latency still runs. -/
theorem engineWait_pos (hbusy : s.busy = true) (hturn : engineTurn s = false) : 0 < s.engineWait := by
  refine Nat.pos_of_ne_zero fun hwait => ?_
  simp [(engineTurn_iff s).2 ⟨hbusy, .inl hwait⟩] at hturn

end

/-- Settles O25: while the engine has no turn, an access lowers `engineWait` and leaves a state of the same
kind. -/
theorem engineStepComesAfterFinitelyManyAccesses :
    Obligations.EngineStepComesAfterFinitelyManyAccesses := by
  intro s hbusy hreset
  induction hwait : s.engineWait generalizing s with
  | zero => exact ⟨0, s, le_rfl, rfl, (engineTurn_iff s).2 ⟨hbusy, .inl hwait⟩, rfl⟩
  | succ k ih =>
    cases hinputs : s.inputs with
    | nil => exact ⟨0, s, Nat.zero_le _, rfl, engineTurn_of_no_input hbusy hinputs, rfl⟩
    | cons a rest =>
      have hturn : engineTurn s = false := by simp [engineTurn, hwait, hinputs]
      have ha : a ≠ .reset := by
        rintro rfl
        simp [hinputs] at hreset
      obtain ⟨hengine, hwait', hinputs'⟩ := inputStep_of_busy rest hbusy ha
      have hbusy' : (inputStep a rest s).busy = true := by rw [hengine]; exact hbusy
      have hreset' : Input.reset ∉ (inputStep a rest s).inputs := by
        rcases hinputs' with h | h
        · rwa [h]
        · exact fun hmem => hreset (by rw [hinputs]; exact List.mem_cons_of_mem a (h ▸ hmem))
      obtain ⟨n, t, hn, hreaches, hturn', ht⟩ := ih _ hbusy' hreset' (by omega)
      refine ⟨n + 1, t, by omega, ⟨_, step_of_input hturn hinputs, hreaches⟩, hturn', ?_⟩
      rw [ht, hengine]

/-! ## Every run ends -/

/-- What is left of a run, most significant first: the host's inputs, the running command, its latency. -/
def State.work (s : State) : ℕ ×ₗ ℕ ×ₗ ℕ :=
  toLex (s.inputs.length, toLex (s.busy.toNat, s.engineWait))

section
variable {s t : State}

theorem work_lt_iff : t.work < s.work ↔
    t.inputs.length < s.inputs.length ∨ (t.inputs.length = s.inputs.length
      ∧ (t.busy.toNat < s.busy.toNat ∨ (t.busy.toNat = s.busy.toNat ∧ t.engineWait < s.engineWait))) := by
  simp only [State.work, Prod.Lex.toLex_lt_toLex]

/-- An engine step clears BUSY and takes none of the host's inputs. -/
theorem work_lt_of_completed (hbusy : s.busy = true) (hinputs : t.inputs = s.inputs)
    (hidle : t.busy = false) : t.work < s.work := by
  simp [work_lt_iff, hbusy, hinputs, hidle]

/-- An input is taken from the list, unless it is the poll while BUSY = 1. -/
theorem inputStep_inputs (a : Input) (rest : List Input) (s : State) :
    (inputStep a rest s).inputs = rest
    ∨ (s.busy = true ∧ a ≠ .reset ∧ (inputStep a rest s).inputs = s.inputs) := by
  rcases inputStep_cases a rest s with
    ⟨_, h⟩ | ⟨_, _, _, _, _, _, h⟩ | ⟨_, v, r, _, _, _, h⟩ | ⟨_, _, ⟨rfl, hbusy, h⟩ | h⟩
  · exact .inl (by rw [h]; rfl)
  · exact .inl (by rw [h]; rfl)
  · obtain ⟨_, _, _, _, hinputs⟩ := writeReg_frame r v (countAccess { s with inputs := rest })
    exact .inl (by rw [h, hinputs]; rfl)
  · exact .inr ⟨hbusy, Input.noConfusion, h⟩
  · exact .inl h

theorem work_lt_of_input {a : Input} {rest : List Input} (hturn : engineTurn s = false)
    (hinputs : s.inputs = a :: rest) : (inputStep a rest s).work < s.work := by
  rcases inputStep_inputs a rest s with h | ⟨hbusy, ha, h⟩
  · exact work_lt_iff.2 (.inl (by simp [h, hinputs]))
  · obtain ⟨hengine, hwait, _⟩ := inputStep_of_busy rest hbusy ha
    have hpos := engineWait_pos hbusy hturn
    have hbusy' : (inputStep a rest s).busy = s.busy := by rw [hengine]
    exact work_lt_iff.2 (.inr ⟨by rw [h], .inr ⟨by rw [hbusy'], by omega⟩⟩)

/-- Every step of a run that has not ended leaves less to do. -/
theorem step_lowers_work (hstep : step s = .next t) (hrun : ¬ s.ended) : t.work < s.work := by
  rcases step_cases.1 hstep with
    ⟨i, t0, ⟨hturn, _⟩, hexec, rfl⟩ | ⟨_, hturn, _, rfl⟩ | ⟨hturn, hinputs, rfl⟩
    | ⟨a, rest, hturn, hinputs, rfl⟩
  · have hkept : t0.inputs = s.inputs := exec_keeps_inputs hexec
    exact work_lt_of_completed (busy_of_engineTurn hturn) hkept rfl
  · exact work_lt_of_completed (busy_of_engineTurn hturn) rfl rfl
  · refine absurd ⟨hinputs, Bool.eq_false_iff.2 fun hbusy => ?_⟩ hrun
    simp [engineTurn_of_no_input hbusy hinputs] at hturn
  · exact work_lt_of_input hturn hinputs

end

/-- R283: the run of a state with any amount of work ends. -/
theorem exists_reaches_ended (s : State) : ∃ (n : Nat) (t : State), s.reaches n t ∧ t.ended := by
  induction hwork : s.work using WellFoundedLT.induction generalizing s with
  | ind w ih =>
    by_cases hended : s.ended
    · exact ⟨0, s, rfl, hended⟩
    · obtain ⟨u, hstep⟩ := everyStepAnswersNext s
      obtain ⟨n, t, hreaches, ht⟩ := ih u.work (hwork ▸ step_lowers_work hstep hended) u rfl
      exact ⟨n + 1, t, ⟨u, hstep, hreaches⟩, ht⟩

/-- Settles O26: the work left falls with every step, and with nothing to do the machine waits. -/
theorem everyHostProgramRunEnds : Obligations.EveryHostProgramRunEnds :=
  ⟨exists_reaches_ended, fun _ ⟨hinputs, hidle⟩ =>
    step_of_no_input (engineTurn_of_idle hidle) hinputs⟩

end Sys2Proof.Machine
end
